-- ==== Sys2Proof/Word.lean ====
section
/-! DEFINITION. The fixed widths of the decode block (spec 00_scope.md rule R8 and rule R10): a byte of the
stream, a 16-bit parcel, a 32-bit instruction or immediate, a 5-bit register specifier, a 3-bit compressed
register field, and the 192-bit container of the longest instruction. -/

namespace Sys2Proof

/-- One byte of the input stream (R61). -/
abbrev Byte := BitVec 8

/-- An instruction parcel: one 16-bit word of the stream (R8). -/
abbrev Parcel := BitVec 16

/-- A 32-bit instruction, or a 32-bit immediate output (R8). -/
abbrev Word := BitVec 32

/-- A register specifier (R8, R17): the value `r` names architectural register `x<r>`. -/
abbrev Reg := BitVec 5

/-- A 3-bit compressed register field `r'`, which names register `8 + r'` (R121). -/
abbrev CReg := BitVec 3

/-- The raw bits of an instruction, zero above its `16n` bits: 192 is the longest length (R10, R30). -/
abbrev Raw := BitVec 192

end Sys2Proof
end

