-- ==== Sys2Proof/Config.lean ====
section
/-! DEFINITION. What an implementation, or the host before a pass, fixes: the two OPEN parameters of the
spec (00_scope.md rule R7 and rule R9, 92_eei_decisions.md D3 and D6) and the buffer's size (rule R10).
The model has no free value: 93_implementation_defined.md says that no behaviour of the block is a draw. -/

namespace Sys2Proof

/-- Parameter `BYTE_ORDER` (R7): the order in which the two bytes of a parcel are combined (R63). -/
inductive ByteOrder where
  | little
  | big
  deriving DecidableEq, Repr

/-- Parameter `PTR_WIDTH` (R9): a positive number of bits, or unbounded. -/
inductive PtrWidth where
  | bits (w : Nat) (positive : 0 < w)
  | unbounded
  deriving DecidableEq, Repr

/-- The parameters the host fixes before a pass (R562 (a)); they do not change during it. -/
structure Params where
  byteOrder : ByteOrder
  ptrWidth  : PtrWidth
  deriving DecidableEq, Repr

namespace Config

/-- The longest instruction the block buffers, in parcels (R10). -/
def maxParcels : Nat := 12

/-- The parameter values at reset. DESIGN CHOICE (assumption 2; unsafe): both parameters are OPEN; these are the
defaults of 92_eei_decisions.md's table of OPEN parameters. -/
def defaultParams : Params := { byteOrder := .little, ptrWidth := .unbounded }

end Config

end Sys2Proof
end

