-- ==== Sys2Proof/Machine/State.lean ====
section
/-! DEFINITION. The machine's state and the records on its ports (spec 10_state.md, 20_memory.md rules R61 and
R68, 60_exceptions.md rules R500 to R504), the reasons a step can stop, and the state after reset (rule R560). -/

namespace Sys2Proof

/-- Length category (R29), in the source's order. -/
inductive Category where
  | compressed16
  | word32
  | doubleWord48
  | quadWord64
  | extended
  | reserved192
  deriving DecidableEq, Repr

/-- The mnemonics of R32, in the order of their codes. -/
inductive Mnemonic where
  | lui | auipc | jal | jalr | lb | lh | lw | lbu | lhu | sb | sh | sw | beq | bne | blt | bge
  | bltu | bgeu | addi | slti | sltiu | xori | ori | andi | slli | srli | srai | add | sub | sll
  | slt | sltu | xor | srl | sra | or | and | csrrw | csrrs | csrrc | csrrwi | csrrsi | csrrci
  | ecall | ebreak | uret | sret | mret | wfi | fence | fenceI | cAddi4spn | cFld | cLw | cFlw
  | cFsd | cSw | cFsw | cAddi | cJal | cLi | cAddi16sp | cLui | cAndi | cSub | cXor | cOr | cAnd
  | cJ | cBeqz | cBnez | cSlli | cSlli64 | cFldsp | cLwsp | cFlwsp | cJr | cMv | cEbreak | cJalr
  | cAdd | cFsdsp | cSwsp | cFswsp
  deriving DecidableEq, Repr

/-- The diagnostic tuple of a malformed encoding (R504). -/
inductive DiagTuple where
  /-- of a `Word32` instruction: `(opcode, funct3, funct7)` -/
  | word32 (opcode : BitVec 7) (funct3 : BitVec 3) (funct7 : BitVec 7)
  /-- of a `Compressed16` instruction: `(quadrant, selector)` -/
  | compressed16 (quadrant : BitVec 2) (selector : BitVec 3)
  deriving DecidableEq, Repr

namespace Machine

/-- A `Decoded` record (R31): a field is present exactly when the mnemonic's operand form lists it. `imm` holds an
immediate, a shift amount or a CSR number, as the form says (R33). -/
structure Decoded where
  mnemonic : Mnemonic
  rd       : Option Reg := none
  rs1      : Option Reg := none
  rs2      : Option Reg := none
  imm      : Option Word := none
  fence    : Option (BitVec 8) := none
  deriving DecidableEq, Repr

/-- An event (R30): one decode result on the event port. `raw` is the `16n`-bit value, zero-extended to the 192-bit
container of the longest instruction (R10). -/
structure Event where
  offset   : Nat
  category : Category
  length   : Nat
  parcels  : List Parcel
  raw      : Raw
  decoded  : Option Decoded
  deriving DecidableEq, Repr

/-- The error kinds of R500. -/
inductive ErrorKind where
  | truncatedInstruction
  | malformedEncoding
  | ioFailure
  deriving DecidableEq, Repr

/-- The error record (R503). -/
structure ErrorRecord where
  kind    : ErrorKind
  offset  : Nat
  parcels : List Parcel
  tuple   : Option DiagTuple
  deriving DecidableEq, Repr

/-- `status` (R21): whether the pass continues. `done` holds the `ptr` of R42's `Done(ptr)`. -/
inductive Status where
  | running
  | done (ptr : Nat)
  | aborted (e : ErrorRecord)
  deriving DecidableEq, Repr

/-- What the outcome port carries, once per pass (R28 (b)): `Done(ptr)` or the abort record. -/
inductive PassOutcome where
  | done (ptr : Nat)
  | error (e : ErrorRecord)
  deriving DecidableEq, Repr

/-- The terminator `T` (R61): what the byte source reports past the last byte. -/
inductive Terminator where
  | eof
  | ioError
  deriving DecidableEq, Repr

/-- The answer of the byte source to a read (R60): the value, exhaustion with the number of bytes that were left (R61),
or any other failure. -/
inductive SourceAnswer (α : Type) where
  | ok (value : α)
  | eof (available : Nat)
  | ioError
  deriving DecidableEq, Repr

/-- The answer of `MemRead(addr, n)` (R61). -/
abbrev MemAnswer := SourceAnswer (List Byte)

/-- The answer of `ReadParcel(addr)` (R63). -/
abbrev ReadAnswer := SourceAnswer Parcel

/-- One parcel read on the input port (R27): the offset the block sent and the answer it got (R80). -/
structure ReadRecord where
  offset : Nat
  answer : ReadAnswer
  deriving DecidableEq, Repr

/-- The bytes of the stream as (offset, byte) cells. Canonical form (`Memory.wf`, Machine/Ops.lean): the cells are
the offsets `0, 1, …, L - 1` in order. An offset that is not listed is past the end of the stream: it holds no
byte, and a read that needs it gets the terminator's answer (R61, R62). -/
abbrev Memory := List Host.Cell

/-- The byte source (R60, R61): the stream `B`, its terminator `T`, its own read cursor (R68), and the offset, if
any, from which it never answers a read again (R80). -/
structure ByteSource where
  bytes      : Memory
  terminator : Terminator
  cursor     : Nat
  silentFrom : Option Nat
  deriving DecidableEq, Repr

/-- The state. `ptr` and `status` are the block's architectural state (R20, R21), `buffer` its parcel buffer `ps`
(R23), `reads`, `events` and `outcome` what its ports have carried in this pass (R27, R28), `params` and `source`
what the host fixed for the pass (R562). -/
structure State where
  params  : Params
  source  : ByteSource
  ptr     : Nat
  status  : Status
  buffer  : List Parcel
  reads   : List ReadRecord
  events  : List Event
  outcome : Option PassOutcome
  deriving DecidableEq, Repr

/-- Why the machine has no step. -/
inductive Fault where
  /-- Raised by `step` when the pass has ended cleanly (R40: a step exactly when `status = Running`). Safe: the spec
  gives no step, and only a reset goes on (R561). -/
  | passDone (ptr : Nat)
  /-- Raised by `step` when the pass was aborted with the record `e` (R40, R511). Safe: the spec gives no step. -/
  | passAborted (e : ErrorRecord)
  /-- Raised by `step` when the byte source never answers the read at this offset (R80): the block holds, stuck with
  `status = Running`. Safe: the spec gives no step and forbids a timeout. -/
  | readUnanswered (offset : Nat)
  deriving DecidableEq, Repr

/-- Why an instruction has no meaning. -/
inductive Refusal where
  /-- Raised by `exec` for an instruction the model gives no meaning yet. Safe. No arm of `exec` raises it. -/
  | notModelled (mnemonic : String)
  deriving DecidableEq, Repr

/-- The state after reset (R560): `ptr` 0, `status` running, the buffer empty, nothing delivered. The parameters and
the stream are the host's (R562). DESIGN CHOICE (assumptions 2 and 3; unsafe): the spec gives them no reset value;
the model takes the default parameters and an empty stream that ends cleanly and always answers. -/
def State.reset : State :=
  { params  := Config.defaultParams
    source  := { bytes := [], terminator := .eof, cursor := 0, silentFrom := none }
    ptr     := 0
    status  := .running
    buffer  := []
    reads   := []
    events  := []
    outcome := none }

end Machine

end Sys2Proof
end

