-- ==== Sys2Proof/Syntax.lean ====
section
/-! DEFINITION. The instructions the block recognises (spec 00_scope.md rule R2): one constructor per row of
spec/opcode_table.json, that is the 51 mnemonics of 30_encoding.md rule R155, the 33 of rule R156 and the four
framed length classes of 47_framed_only.md.

An operand is the field the decoder extracts, BEFORE its extension to 32 bits: `imm` has the width "before
extension" of the table of rule R130 and holds the scattered field in place, with its fixed low zero bits (the
operand's meaning extends it, Machine/Operands.lean). A 3-bit operand is the compressed field `r'` of rule
R121. A field the block does not read (`rd` and `rs1` of the PRIV mnemonics, `fm`, `rs1`, `rd` of `fence`,
everything above `funct3` of `fence.i`: rules R281, R296, R298) is no operand. The payload of a framed
instruction is its list of parcels, first parcel first (rules R440 to R444). -/

namespace Sys2Proof

inductive Instr where
  -- 41_rv32_upper_jump_load_store_branch.md
  /-- `lui` (R200) -/
  | lui (rd : Reg) (imm : BitVec 32)
  /-- `auipc` (R201) -/
  | auipc (rd : Reg) (imm : BitVec 32)
  /-- `jal` (R202) -/
  | jal (rd : Reg) (imm : BitVec 21)
  /-- `jalr` (R203) -/
  | jalr (rd rs1 : Reg) (imm : BitVec 12)
  /-- `lb` (R205) -/
  | lb (rd rs1 : Reg) (imm : BitVec 12)
  /-- `lh` (R206) -/
  | lh (rd rs1 : Reg) (imm : BitVec 12)
  /-- `lw` (R207) -/
  | lw (rd rs1 : Reg) (imm : BitVec 12)
  /-- `lbu` (R208) -/
  | lbu (rd rs1 : Reg) (imm : BitVec 12)
  /-- `lhu` (R209) -/
  | lhu (rd rs1 : Reg) (imm : BitVec 12)
  /-- `sb` (R211) -/
  | sb (rs1 rs2 : Reg) (imm : BitVec 12)
  /-- `sh` (R212) -/
  | sh (rs1 rs2 : Reg) (imm : BitVec 12)
  /-- `sw` (R213) -/
  | sw (rs1 rs2 : Reg) (imm : BitVec 12)
  /-- `beq` (R215) -/
  | beq (rs1 rs2 : Reg) (imm : BitVec 13)
  /-- `bne` (R216) -/
  | bne (rs1 rs2 : Reg) (imm : BitVec 13)
  /-- `blt` (R217) -/
  | blt (rs1 rs2 : Reg) (imm : BitVec 13)
  /-- `bge` (R218) -/
  | bge (rs1 rs2 : Reg) (imm : BitVec 13)
  /-- `bltu` (R219) -/
  | bltu (rs1 rs2 : Reg) (imm : BitVec 13)
  /-- `bgeu` (R220) -/
  | bgeu (rs1 rs2 : Reg) (imm : BitVec 13)
  -- 42_rv32_alu.md: OP-IMM and OP
  /-- `addi` (R241) -/
  | addi (rd rs1 : Reg) (imm : BitVec 12)
  /-- `slti` (R242) -/
  | slti (rd rs1 : Reg) (imm : BitVec 12)
  /-- `sltiu` (R243) -/
  | sltiu (rd rs1 : Reg) (imm : BitVec 12)
  /-- `xori` (R244) -/
  | xori (rd rs1 : Reg) (imm : BitVec 12)
  /-- `ori` (R245) -/
  | ori (rd rs1 : Reg) (imm : BitVec 12)
  /-- `andi` (R246) -/
  | andi (rd rs1 : Reg) (imm : BitVec 12)
  /-- `slli` (R247) -/
  | slli (rd rs1 : Reg) (shamt : BitVec 5)
  /-- `srli` (R248) -/
  | srli (rd rs1 : Reg) (shamt : BitVec 5)
  /-- `srai` (R249) -/
  | srai (rd rs1 : Reg) (shamt : BitVec 5)
  /-- `add` (R252) -/
  | add (rd rs1 rs2 : Reg)
  /-- `sub` (R253) -/
  | sub (rd rs1 rs2 : Reg)
  /-- `sll` (R254) -/
  | sll (rd rs1 rs2 : Reg)
  /-- `slt` (R255) -/
  | slt (rd rs1 rs2 : Reg)
  /-- `sltu` (R256) -/
  | sltu (rd rs1 rs2 : Reg)
  /-- `xor` (R257) -/
  | xor (rd rs1 rs2 : Reg)
  /-- `srl` (R258) -/
  | srl (rd rs1 rs2 : Reg)
  /-- `sra` (R259) -/
  | sra (rd rs1 rs2 : Reg)
  /-- `or` (R260) -/
  | or (rd rs1 rs2 : Reg)
  /-- `and` (R261) -/
  | and (rd rs1 rs2 : Reg)
  -- 43_rv32_system_fence.md: CSR, PRIV and MISC-MEM
  /-- `csrrw` (R289) -/
  | csrrw (rd rs1 : Reg) (csr : BitVec 12)
  /-- `csrrs` (R290) -/
  | csrrs (rd rs1 : Reg) (csr : BitVec 12)
  /-- `csrrc` (R291) -/
  | csrrc (rd rs1 : Reg) (csr : BitVec 12)
  /-- `csrrwi` (R292) -/
  | csrrwi (rd rs1 : Reg) (csr : BitVec 12)
  /-- `csrrsi` (R293) -/
  | csrrsi (rd rs1 : Reg) (csr : BitVec 12)
  /-- `csrrci` (R294) -/
  | csrrci (rd rs1 : Reg) (csr : BitVec 12)
  /-- `ecall` (R282) -/
  | ecall
  /-- `ebreak` (R283) -/
  | ebreak
  /-- `uret` (R284) -/
  | uret
  /-- `sret` (R285) -/
  | sret
  /-- `mret` (R286) -/
  | mret
  /-- `wfi` (R287) -/
  | wfi
  /-- `fence` (R296) -/
  | fence (flags : BitVec 8)
  /-- `fence.i` (R298) -/
  | fenceI
  -- 44_rvc_quadrant0.md
  /-- `c.addi4spn` (R320) -/
  | cAddi4spn (rd : CReg) (imm : BitVec 10)
  /-- `c.fld` (R321) -/
  | cFld (rd rs1 : CReg) (imm : BitVec 8)
  /-- `c.lw` (R322) -/
  | cLw (rd rs1 : CReg) (imm : BitVec 7)
  /-- `c.flw` (R323) -/
  | cFlw (rd rs1 : CReg) (imm : BitVec 7)
  /-- `c.fsd` (R325) -/
  | cFsd (rs1 rs2 : CReg) (imm : BitVec 8)
  /-- `c.sw` (R326) -/
  | cSw (rs1 rs2 : CReg) (imm : BitVec 7)
  /-- `c.fsw` (R327) -/
  | cFsw (rs1 rs2 : CReg) (imm : BitVec 7)
  -- 45_rvc_quadrant1.md
  /-- `c.addi` (R360) -/
  | cAddi (rd : Reg) (imm : BitVec 6)
  /-- `c.jal` (R361) -/
  | cJal (imm : BitVec 12)
  /-- `c.li` (R362) -/
  | cLi (rd : Reg) (imm : BitVec 6)
  /-- `c.addi16sp` (R364) -/
  | cAddi16sp (imm : BitVec 10)
  /-- `c.lui` (R365) -/
  | cLui (rd : Reg) (imm : BitVec 18)
  /-- `c.andi` (R368) -/
  | cAndi (rd : CReg) (imm : BitVec 6)
  /-- `c.sub` (R370) -/
  | cSub (rd rs2 : CReg)
  /-- `c.xor` (R371) -/
  | cXor (rd rs2 : CReg)
  /-- `c.or` (R372) -/
  | cOr (rd rs2 : CReg)
  /-- `c.and` (R373) -/
  | cAnd (rd rs2 : CReg)
  /-- `c.j` (R374) -/
  | cJ (imm : BitVec 12)
  /-- `c.beqz` (R375) -/
  | cBeqz (rs1 : CReg) (imm : BitVec 9)
  /-- `c.bnez` (R376) -/
  | cBnez (rs1 : CReg) (imm : BitVec 9)
  -- 46_rvc_quadrant2.md
  /-- `c.slli` (R400) -/
  | cSlli (rd : Reg) (shamt : BitVec 6)
  /-- `c.slli64` (R401) -/
  | cSlli64 (rd : Reg)
  /-- `c.fldsp` (R402) -/
  | cFldsp (rd : Reg) (imm : BitVec 9)
  /-- `c.lwsp` (R403) -/
  | cLwsp (rd : Reg) (imm : BitVec 8)
  /-- `c.flwsp` (R404) -/
  | cFlwsp (rd : Reg) (imm : BitVec 8)
  /-- `c.jr` (R406) -/
  | cJr (rs1 : Reg)
  /-- `c.mv` (R407) -/
  | cMv (rd rs2 : Reg)
  /-- `c.ebreak` (R408) -/
  | cEbreak
  /-- `c.jalr` (R409) -/
  | cJalr (rs1 : Reg)
  /-- `c.add` (R410) -/
  | cAdd (rd rs2 : Reg)
  /-- `c.fsdsp` (R411) -/
  | cFsdsp (rs2 : Reg) (imm : BitVec 9)
  /-- `c.swsp` (R412) -/
  | cSwsp (rs2 : Reg) (imm : BitVec 8)
  /-- `c.fswsp` (R413) -/
  | cFswsp (rs2 : Reg) (imm : BitVec 8)
  -- 47_framed_only.md
  /-- `framed__DoubleWord48` (R441) -/
  | framedDoubleWord48 (parcels : List Parcel)
  /-- `framed__QuadWord64` (R442) -/
  | framedQuadWord64 (parcels : List Parcel)
  /-- `framed__Extended` (R443) -/
  | framedExtended (parcels : List Parcel)
  /-- `framed__Reserved192` (R444) -/
  | framedReserved192 (parcels : List Parcel)
  deriving DecidableEq, Repr

end Sys2Proof
end

