-- ==== Sys2Proof/WellFormed.lean ====
section
/-! DEFINITION. Which terms of `Instr` stand for an instruction of the block. Each check is a condition the spec
puts on an operand: the fixed low zero bits of a scattered immediate (30_encoding.md rules R130 to R152), the
values a sub-split of an encoding excludes (rules R320, R363, R400, R405), and, for a framed instruction, the
length class its first parcel selects (rule R107) with its number of parcels. -/

namespace Sys2Proof

/-- The low `k` bits of an in-place immediate are zero: no pair of its scatter list fills them (R14). -/
def lowZero {w : Nat} (k : Nat) (imm : BitVec w) : Bool := imm.extractLsb' 0 k == 0#k

/-- The first parcel of a framed instruction satisfies `p` and the instruction has `n` parcels. -/
def framedAs (p : Parcel → Bool) (n : Parcel → Nat) (ps : List Parcel) : Bool :=
  match ps with
  | [] => false
  | p0 :: _ => p p0 && ps.length == n p0

/-- The patterns of R107 for the four framed classes, over the first parcel. -/
def isDoubleWord48 (p0 : Parcel) : Bool := p0.extractLsb' 0 6 == 0b011111#6
def isQuadWord64 (p0 : Parcel) : Bool := p0.extractLsb' 0 7 == 0b0111111#7
def isExtended (p0 : Parcel) : Bool := p0.extractLsb' 0 7 == 0b1111111#7 && p0.extractLsb' 12 3 != 0b111#3
def isReserved192 (p0 : Parcel) : Bool := p0.extractLsb' 0 7 == 0b1111111#7 && p0.extractLsb' 12 3 == 0b111#3

/-- Well-formedness of an instruction. -/
def Instr.wellFormed : Instr → Bool
  -- R136: the U immediate is `i[31:12] ‖ 0^12`
  | .lui _ imm => lowZero 12 imm
  | .auipc _ imm => lowZero 12 imm
  -- R137: bit 0 of the J immediate is 0
  | .jal _ imm => lowZero 1 imm
  | .jalr _ _ _ => true
  | .lb _ _ _ => true
  | .lh _ _ _ => true
  | .lw _ _ _ => true
  | .lbu _ _ _ => true
  | .lhu _ _ _ => true
  | .sb _ _ _ => true
  | .sh _ _ _ => true
  | .sw _ _ _ => true
  -- R135: bit 0 of the B immediate is 0
  | .beq _ _ imm => lowZero 1 imm
  | .bne _ _ imm => lowZero 1 imm
  | .blt _ _ imm => lowZero 1 imm
  | .bge _ _ imm => lowZero 1 imm
  | .bltu _ _ imm => lowZero 1 imm
  | .bgeu _ _ imm => lowZero 1 imm
  | .addi _ _ _ => true
  | .slti _ _ _ => true
  | .sltiu _ _ _ => true
  | .xori _ _ _ => true
  | .ori _ _ _ => true
  | .andi _ _ _ => true
  | .slli _ _ _ => true
  | .srli _ _ _ => true
  | .srai _ _ _ => true
  | .add _ _ _ => true
  | .sub _ _ _ => true
  | .sll _ _ _ => true
  | .slt _ _ _ => true
  | .sltu _ _ _ => true
  | .xor _ _ _ => true
  | .srl _ _ _ => true
  | .sra _ _ _ => true
  | .or _ _ _ => true
  | .and _ _ _ => true
  | .csrrw _ _ _ => true
  | .csrrs _ _ _ => true
  | .csrrc _ _ _ => true
  | .csrrwi _ _ _ => true
  | .csrrsi _ _ _ => true
  | .csrrci _ _ _ => true
  | .ecall => true
  | .ebreak => true
  | .uret => true
  | .sret => true
  | .mret => true
  | .wfi => true
  | .fence _ => true
  | .fenceI => true
  -- R140, R320: a multiple of 4, and not 0
  | .cAddi4spn _ imm => lowZero 2 imm && imm != 0#10
  -- R142: multiples of 8; R141: multiples of 4
  | .cFld _ _ imm => lowZero 3 imm
  | .cLw _ _ imm => lowZero 2 imm
  | .cFlw _ _ imm => lowZero 2 imm
  | .cFsd _ _ imm => lowZero 3 imm
  | .cSw _ _ imm => lowZero 2 imm
  | .cFsw _ _ imm => lowZero 2 imm
  | .cAddi _ _ => true
  -- R147: bit 0 of the jump offset is 0
  | .cJal imm => lowZero 1 imm
  | .cLi _ _ => true
  -- R144: a multiple of 16
  | .cAddi16sp imm => lowZero 4 imm
  -- R145: a multiple of 4096; R363: `rd = 2` is `c.addi16sp`
  | .cLui rd imm => lowZero 12 imm && rd != 2#5
  | .cAndi _ _ => true
  | .cSub _ _ => true
  | .cXor _ _ => true
  | .cOr _ _ => true
  | .cAnd _ _ => true
  | .cJ imm => lowZero 1 imm
  -- R148: bit 0 of the branch offset is 0
  | .cBeqz _ imm => lowZero 1 imm
  | .cBnez _ imm => lowZero 1 imm
  -- R400: a zero shift amount is `c.slli64`
  | .cSlli _ shamt => shamt != 0#6
  | .cSlli64 _ => true
  -- R150, R152: multiples of 8; R149, R151: multiples of 4
  | .cFldsp _ imm => lowZero 3 imm
  | .cLwsp _ imm => lowZero 2 imm
  | .cFlwsp _ imm => lowZero 2 imm
  | .cJr _ => true
  -- R405: `c.mv` and `c.add` have `rs2 ≠ 0`, `c.jalr` has `rs1 ≠ 0`
  | .cMv _ rs2 => rs2 != 0#5
  | .cEbreak => true
  | .cJalr rs1 => rs1 != 0#5
  | .cAdd _ rs2 => rs2 != 0#5
  | .cFsdsp _ imm => lowZero 3 imm
  | .cSwsp _ imm => lowZero 2 imm
  | .cFswsp _ imm => lowZero 2 imm
  -- R441 to R444: the class and the number of parcels
  | .framedDoubleWord48 ps => framedAs isDoubleWord48 (fun _ => 3) ps
  | .framedQuadWord64 ps => framedAs isQuadWord64 (fun _ => 4) ps
  | .framedExtended ps => framedAs isExtended (fun p0 => 5 + (p0.extractLsb' 12 3).toNat) ps
  | .framedReserved192 ps => framedAs isReserved192 (fun _ => 12) ps

end Sys2Proof
end

