-- ==== Sys2Proof/Decode.lean ====
section
/-! DEFINITION. The length classifier, the field extractor and the two resolvers of the block (spec
30_encoding.md and the family files 41 to 47), as one total decoder, and after it the encoder.

Decoding extracts each operand field (contiguous slices, R110 and R120, and scattered immediates, R14) and gives
an `Instr`; the extension of a field to 32 bits is its meaning's (Machine/Operands.lean). The decoder scatters by
the pair lists of R133 to R152; the encoder concatenates by the format tables R112 and R122. -/

namespace Sys2Proof

/-! ### Length classification -/

/-- The classifier's 3-bit length field `nnn = p0[14:12]` (R105). -/
def lengthField (p0 : Parcel) : BitVec 3 := p0.extractLsb' 12 3

/-- `Classify(p0)` (R100): the length category and the number of parcels; the arms are tried in order. -/
def classify (p0 : Parcel) : Category × Nat :=
  if p0.extractLsb' 0 2 ≠ 0b11#2 then (.compressed16, 1)        -- R101
  else if p0.extractLsb' 2 3 ≠ 0b111#3 then (.word32, 2)         -- R102
  else if p0.extractLsb' 5 1 = 0#1 then (.doubleWord48, 3)       -- R103
  else if p0.extractLsb' 6 1 = 0#1 then (.quadWord64, 4)         -- R104
  else if lengthField p0 ≠ 0b111#3 then (.extended, 5 + (lengthField p0).toNat)  -- R105
  else (.reserved192, 12)                                        -- R106

/-- The numeric code of a length category (R29). -/
def Category.code : Category → Nat
  | .compressed16 => 0
  | .word32 => 1
  | .doubleWord48 => 2
  | .quadWord64 => 3
  | .extended => 4
  | .reserved192 => 5

/-! ### Concatenation, scatter and fields -/

/-- Concatenation `a ‖ b` (R12), `a` above `b`, with the result's width written out. -/
def cat (w : Nat) {n m : Nat} (a : BitVec n) (b : BitVec m) : BitVec w := (a ++ b).setWidth w

/-- `scatter(v; a:b→c, …)` (R14): for each `(a, b, c)` the field `v[a:b]` is placed at bit `c`; other bits are 0. -/
def scatter {n : Nat} (w : Nat) (v : BitVec n) : List (Nat × Nat × Nat) → BitVec w
  | [] => 0
  | (a, b, c) :: rest => ((v.extractLsb' b (a - b + 1)).setWidth w <<< c) ||| scatter w v rest

/-! The contiguous fields of a 32-bit instruction (R110, R111, R113, R114). -/

def opcode (i : Word) : BitVec 7 := i.extractLsb' 0 7
def fieldRd (i : Word) : Reg := i.extractLsb' 7 5
def funct3 (i : Word) : BitVec 3 := i.extractLsb' 12 3
def fieldRs1 (i : Word) : Reg := i.extractLsb' 15 5
def fieldRs2 (i : Word) : Reg := i.extractLsb' 20 5
def funct7 (i : Word) : BitVec 7 := i.extractLsb' 25 7
def fieldShamt (i : Word) : BitVec 5 := i.extractLsb' 20 5
def fieldCsr (i : Word) : BitVec 12 := i.extractLsb' 20 12
def fieldFence (i : Word) : BitVec 8 := i.extractLsb' 20 8

/-! The scattered immediates of 32-bit instructions, before extension (R133 to R137). -/

def fieldImmI (i : Word) : BitVec 12 := i.extractLsb' 20 12
def fieldImmS (i : Word) : BitVec 12 := scatter 12 i [(31, 25, 5), (11, 7, 0)]
def fieldImmB (i : Word) : BitVec 13 := scatter 13 i [(31, 31, 12), (7, 7, 11), (30, 25, 5), (11, 8, 1)]
def fieldImmU (i : Word) : BitVec 32 := cat 32 (i.extractLsb' 12 20) 0#12
def fieldImmJ (i : Word) : BitVec 21 := scatter 21 i [(31, 31, 20), (19, 12, 12), (20, 20, 11), (30, 21, 1)]

/-! The fields of a 16-bit instruction (R120). -/

def quadrant (c : Parcel) : BitVec 2 := c.extractLsb' 0 2
def selector (c : Parcel) : BitVec 3 := c.extractLsb' 13 3
def cRd (c : Parcel) : Reg := c.extractLsb' 7 5
def cRs2 (c : Parcel) : Reg := c.extractLsb' 2 5
/-- `rs1'`, or `rd'` of the CA and CB formats: `c[9:7]`. -/
def cHigh (c : Parcel) : CReg := c.extractLsb' 7 3
/-- `rd'` of the CIW and CL formats, or `rs2'`: `c[4:2]`. -/
def cLow (c : Parcel) : CReg := c.extractLsb' 2 3
def cFunct2 (c : Parcel) : BitVec 2 := c.extractLsb' 10 2
def cFunct2b (c : Parcel) : BitVec 2 := c.extractLsb' 5 2
def cBit12 (c : Parcel) : BitVec 1 := c.extractLsb' 12 1

/-! The scattered immediates of 16-bit instructions, before extension (R140 to R152). -/

def immCiw (c : Parcel) : BitVec 10 := scatter 10 c [(12, 11, 4), (10, 7, 6), (6, 6, 2), (5, 5, 3)]
def immCLw (c : Parcel) : BitVec 7 := scatter 7 c [(12, 10, 3), (6, 6, 2), (5, 5, 6)]
def immCLd (c : Parcel) : BitVec 8 := scatter 8 c [(12, 10, 3), (6, 5, 6)]
def immCi (c : Parcel) : BitVec 6 := scatter 6 c [(12, 12, 5), (6, 2, 0)]
def immC16sp (c : Parcel) : BitVec 10 := scatter 10 c [(12, 12, 9), (6, 6, 4), (5, 5, 6), (4, 3, 7), (2, 2, 5)]
def immCLui (c : Parcel) : BitVec 18 := scatter 18 c [(12, 12, 17), (6, 2, 12)]
def immCSh (c : Parcel) : BitVec 6 := scatter 6 c [(12, 12, 5), (6, 2, 0)]
def immCJ (c : Parcel) : BitVec 12 :=
  scatter 12 c [(12, 12, 11), (11, 11, 4), (10, 9, 8), (8, 8, 10), (7, 7, 6), (6, 6, 7), (5, 3, 1), (2, 2, 5)]
def immCB (c : Parcel) : BitVec 9 := scatter 9 c [(12, 12, 8), (11, 10, 3), (6, 5, 6), (4, 3, 1), (2, 2, 5)]
def immCLwsp (c : Parcel) : BitVec 8 := scatter 8 c [(12, 12, 5), (6, 4, 2), (3, 2, 6)]
def immCLdsp (c : Parcel) : BitVec 9 := scatter 9 c [(12, 12, 5), (6, 5, 3), (4, 2, 6)]
def immCSwsp (c : Parcel) : BitVec 8 := scatter 8 c [(12, 9, 2), (8, 7, 6)]
def immCSdsp (c : Parcel) : BitVec 9 := scatter 9 c [(12, 10, 3), (9, 7, 6)]

/-! ### The 32-bit resolver (R158): first on opcode, then `funct3`, then `funct7` -/

/-- JALR (R203, R204). -/
def decodeJalr (i : Word) : Option Instr :=
  if funct3 i = 0b000#3 then some (.jalr (fieldRd i) (fieldRs1 i) (fieldImmI i)) else none

/-- LOAD (R205 to R210, R222). -/
def decodeLoad (i : Word) : Option Instr :=
  if funct3 i = 0b000#3 then some (.lb (fieldRd i) (fieldRs1 i) (fieldImmI i))
  else if funct3 i = 0b001#3 then some (.lh (fieldRd i) (fieldRs1 i) (fieldImmI i))
  else if funct3 i = 0b010#3 then some (.lw (fieldRd i) (fieldRs1 i) (fieldImmI i))
  else if funct3 i = 0b100#3 then some (.lbu (fieldRd i) (fieldRs1 i) (fieldImmI i))
  else if funct3 i = 0b101#3 then some (.lhu (fieldRd i) (fieldRs1 i) (fieldImmI i))
  else none

/-- STORE (R211 to R214, R223). -/
def decodeStore (i : Word) : Option Instr :=
  if funct3 i = 0b000#3 then some (.sb (fieldRs1 i) (fieldRs2 i) (fieldImmS i))
  else if funct3 i = 0b001#3 then some (.sh (fieldRs1 i) (fieldRs2 i) (fieldImmS i))
  else if funct3 i = 0b010#3 then some (.sw (fieldRs1 i) (fieldRs2 i) (fieldImmS i))
  else none

/-- BRANCH (R215 to R221, R224). -/
def decodeBranch (i : Word) : Option Instr :=
  if funct3 i = 0b000#3 then some (.beq (fieldRs1 i) (fieldRs2 i) (fieldImmB i))
  else if funct3 i = 0b001#3 then some (.bne (fieldRs1 i) (fieldRs2 i) (fieldImmB i))
  else if funct3 i = 0b100#3 then some (.blt (fieldRs1 i) (fieldRs2 i) (fieldImmB i))
  else if funct3 i = 0b101#3 then some (.bge (fieldRs1 i) (fieldRs2 i) (fieldImmB i))
  else if funct3 i = 0b110#3 then some (.bltu (fieldRs1 i) (fieldRs2 i) (fieldImmB i))
  else if funct3 i = 0b111#3 then some (.bgeu (fieldRs1 i) (fieldRs2 i) (fieldImmB i))
  else none

/-- OP-IMM (R240 to R250). -/
def decodeOpImm (i : Word) : Option Instr :=
  if funct3 i = 0b000#3 then some (.addi (fieldRd i) (fieldRs1 i) (fieldImmI i))
  else if funct3 i = 0b010#3 then some (.slti (fieldRd i) (fieldRs1 i) (fieldImmI i))
  else if funct3 i = 0b011#3 then some (.sltiu (fieldRd i) (fieldRs1 i) (fieldImmI i))
  else if funct3 i = 0b100#3 then some (.xori (fieldRd i) (fieldRs1 i) (fieldImmI i))
  else if funct3 i = 0b110#3 then some (.ori (fieldRd i) (fieldRs1 i) (fieldImmI i))
  else if funct3 i = 0b111#3 then some (.andi (fieldRd i) (fieldRs1 i) (fieldImmI i))
  else if funct3 i = 0b001#3 then
    if funct7 i = 0b0000000#7 then some (.slli (fieldRd i) (fieldRs1 i) (fieldShamt i)) else none
  else
    if funct7 i = 0b0000000#7 then some (.srli (fieldRd i) (fieldRs1 i) (fieldShamt i))
    else if funct7 i = 0b0100000#7 then some (.srai (fieldRd i) (fieldRs1 i) (fieldShamt i))
    else none

/-- OP (R251 to R262): the pair (`funct3`, `funct7`). -/
def decodeOp (i : Word) : Option Instr :=
  if funct7 i = 0b0000000#7 then
    if funct3 i = 0b000#3 then some (.add (fieldRd i) (fieldRs1 i) (fieldRs2 i))
    else if funct3 i = 0b001#3 then some (.sll (fieldRd i) (fieldRs1 i) (fieldRs2 i))
    else if funct3 i = 0b010#3 then some (.slt (fieldRd i) (fieldRs1 i) (fieldRs2 i))
    else if funct3 i = 0b011#3 then some (.sltu (fieldRd i) (fieldRs1 i) (fieldRs2 i))
    else if funct3 i = 0b100#3 then some (.xor (fieldRd i) (fieldRs1 i) (fieldRs2 i))
    else if funct3 i = 0b101#3 then some (.srl (fieldRd i) (fieldRs1 i) (fieldRs2 i))
    else if funct3 i = 0b110#3 then some (.or (fieldRd i) (fieldRs1 i) (fieldRs2 i))
    else some (.and (fieldRd i) (fieldRs1 i) (fieldRs2 i))
  else if funct7 i = 0b0100000#7 then
    if funct3 i = 0b000#3 then some (.sub (fieldRd i) (fieldRs1 i) (fieldRs2 i))
    else if funct3 i = 0b101#3 then some (.sra (fieldRd i) (fieldRs1 i) (fieldRs2 i))
    else none
  else none

/-- The PRIV lookup of the 12-bit value `i[31:20]` (R281); `rd` and `rs1` are not read. -/
def decodePriv (i : Word) : Option Instr :=
  if fieldImmI i = 0x000#12 then some .ecall
  else if fieldImmI i = 0x001#12 then some .ebreak
  else if fieldImmI i = 0x002#12 then some .uret
  else if fieldImmI i = 0x102#12 then some .sret
  else if fieldImmI i = 0x302#12 then some .mret
  else if fieldImmI i = 0x105#12 then some .wfi
  else none

/-- SYSTEM (R280, R288 to R295). -/
def decodeSystem (i : Word) : Option Instr :=
  if funct3 i = 0b000#3 then decodePriv i
  else if funct3 i = 0b001#3 then some (.csrrw (fieldRd i) (fieldRs1 i) (fieldCsr i))
  else if funct3 i = 0b010#3 then some (.csrrs (fieldRd i) (fieldRs1 i) (fieldCsr i))
  else if funct3 i = 0b011#3 then some (.csrrc (fieldRd i) (fieldRs1 i) (fieldCsr i))
  else if funct3 i = 0b101#3 then some (.csrrwi (fieldRd i) (fieldRs1 i) (fieldCsr i))
  else if funct3 i = 0b110#3 then some (.csrrsi (fieldRd i) (fieldRs1 i) (fieldCsr i))
  else if funct3 i = 0b111#3 then some (.csrrci (fieldRd i) (fieldRs1 i) (fieldCsr i))
  else none

/-- MISC-MEM (R296 to R299). -/
def decodeMiscMem (i : Word) : Option Instr :=
  if funct3 i = 0b000#3 then some (.fence (fieldFence i))
  else if funct3 i = 0b001#3 then some .fenceI
  else none

/-- `Decode32(i)` (R158): `none` is `MalformedEncoding` (R170). -/
def decode32 (i : Word) : Option Instr :=
  if opcode i = 0b0110111#7 then some (.lui (fieldRd i) (fieldImmU i))          -- R200
  else if opcode i = 0b0010111#7 then some (.auipc (fieldRd i) (fieldImmU i))    -- R201
  else if opcode i = 0b1101111#7 then some (.jal (fieldRd i) (fieldImmJ i))      -- R202
  else if opcode i = 0b1100111#7 then decodeJalr i
  else if opcode i = 0b0000011#7 then decodeLoad i
  else if opcode i = 0b0100011#7 then decodeStore i
  else if opcode i = 0b1100011#7 then decodeBranch i
  else if opcode i = 0b0010011#7 then decodeOpImm i
  else if opcode i = 0b0110011#7 then decodeOp i
  else if opcode i = 0b1110011#7 then decodeSystem i
  else if opcode i = 0b0001111#7 then decodeMiscMem i
  else none

/-! ### The 16-bit resolver (R157): first on quadrant, then on selector -/

/-- Quadrant C0 (R320 to R327). -/
def decodeC0 (c : Parcel) : Option Instr :=
  if selector c = 0b000#3 then
    if immCiw c = 0#10 then none else some (.cAddi4spn (cLow c) (immCiw c))
  else if selector c = 0b001#3 then some (.cFld (cLow c) (cHigh c) (immCLd c))
  else if selector c = 0b010#3 then some (.cLw (cLow c) (cHigh c) (immCLw c))
  else if selector c = 0b011#3 then some (.cFlw (cLow c) (cHigh c) (immCLw c))
  else if selector c = 0b100#3 then none                                          -- R324
  else if selector c = 0b101#3 then some (.cFsd (cHigh c) (cLow c) (immCLd c))
  else if selector c = 0b110#3 then some (.cSw (cHigh c) (cLow c) (immCLw c))
  else some (.cFsw (cHigh c) (cLow c) (immCLw c))

/-- Selector `100` of quadrant C1 (R366 to R370, R377). -/
def decodeC1Arith (c : Parcel) : Option Instr :=
  if cFunct2 c = 0b10#2 then some (.cAndi (cHigh c) (immCi c))
  else if cFunct2 c = 0b11#2 then
    if cBit12 c = 0#1 then
      if cFunct2b c = 0b00#2 then some (.cSub (cHigh c) (cLow c))
      else if cFunct2b c = 0b01#2 then some (.cXor (cHigh c) (cLow c))
      else if cFunct2b c = 0b10#2 then some (.cOr (cHigh c) (cLow c))
      else some (.cAnd (cHigh c) (cLow c))
    else none                                                                      -- R369
  else none                                                                        -- R367

/-- Quadrant C1 (R360 to R377). -/
def decodeC1 (c : Parcel) : Option Instr :=
  if selector c = 0b000#3 then some (.cAddi (cRd c) (immCi c))
  else if selector c = 0b001#3 then some (.cJal (immCJ c))
  else if selector c = 0b010#3 then some (.cLi (cRd c) (immCi c))
  else if selector c = 0b011#3 then                                                -- R363
    if cRd c = 2#5 then some (.cAddi16sp (immC16sp c)) else some (.cLui (cRd c) (immCLui c))
  else if selector c = 0b100#3 then decodeC1Arith c
  else if selector c = 0b101#3 then some (.cJ (immCJ c))
  else if selector c = 0b110#3 then some (.cBeqz (cHigh c) (immCB c))
  else some (.cBnez (cHigh c) (immCB c))

/-- Selector `100` of quadrant C2: the triple (`c[12]`, `c[11:7] ≠ 0`, `c[6:2] ≠ 0`) (R405). -/
def decodeC2Group (c : Parcel) : Option Instr :=
  if cBit12 c = 0#1 then
    if cRs2 c = 0#5 then some (.cJr (cRd c)) else some (.cMv (cRd c) (cRs2 c))
  else if cRs2 c = 0#5 then
    if cRd c = 0#5 then some .cEbreak else some (.cJalr (cRd c))
  else some (.cAdd (cRd c) (cRs2 c))

/-- Quadrant C2 (R400 to R413). -/
def decodeC2 (c : Parcel) : Option Instr :=
  if selector c = 0b000#3 then
    if immCSh c = 0#6 then some (.cSlli64 (cRd c)) else some (.cSlli (cRd c) (immCSh c))
  else if selector c = 0b001#3 then some (.cFldsp (cRd c) (immCLdsp c))
  else if selector c = 0b010#3 then some (.cLwsp (cRd c) (immCLwsp c))
  else if selector c = 0b011#3 then some (.cFlwsp (cRd c) (immCLwsp c))
  else if selector c = 0b100#3 then decodeC2Group c
  else if selector c = 0b101#3 then some (.cFsdsp (cRs2 c) (immCSdsp c))
  else if selector c = 0b110#3 then some (.cSwsp (cRs2 c) (immCSwsp c))
  else some (.cFswsp (cRs2 c) (immCSwsp c))

/-- `Decode16(c)` (R157): `none` is `MalformedEncoding`. Quadrant `11` is no compressed instruction (R101). -/
def decode16 (c : Parcel) : Option Instr :=
  if quadrant c = 0b00#2 then decodeC0 c
  else if quadrant c = 0b01#2 then decodeC1 c
  else if quadrant c = 0b10#2 then decodeC2 c
  else none

/-! ### The decoder -/

/-- The diagnostic tuple of a 32-bit instruction, whatever its format, and of a 16-bit one (R504). -/
def tuple32 (i : Word) : DiagTuple := .word32 (opcode i) (funct3 i) (funct7 i)
def tuple16 (c : Parcel) : DiagTuple := .compressed16 (quadrant c) (selector c)

/-- Why a list of parcels is no instruction. -/
inductive DecodeError where
  /-- there is no parcel -/
  | noParcel
  /-- fewer parcels than the first one's length class needs (R502) -/
  | truncated
  /-- the resolver reaches no decoding arm (R501) -/
  | malformed (t : DiagTuple)
  deriving DecidableEq, Repr

/-- What decoding answers. -/
inductive DecodeResult where
  | instr (i : Instr)
  | rejected (e : DecodeError)
  deriving DecidableEq, Repr

/-- A resolver's outcome (R159): an instruction, or malformed with its tuple. -/
def resolved (t : DiagTuple) : Option Instr → DecodeResult
  | some i => .instr i
  | none => .rejected (.malformed t)

/-- The first two parcels as a 32-bit instruction: the first is the low half (R65). -/
def wordOf (p0 p1 : Parcel) : Word := cat 32 p1 p0

/-- Decode dispatch (R43) on the parcels `ps` of an instruction with first parcel `p0`; parcels after the
instruction's own are not read. -/
def decodeAs (p0 : Parcel) (ps : List Parcel) : Category → DecodeResult
  | .compressed16 => resolved (tuple16 p0) (decode16 p0)
  | .word32 =>
    match ps with
    | _ :: p1 :: _ => resolved (tuple32 (wordOf p0 p1)) (decode32 (wordOf p0 p1))
    | _ => .rejected .truncated
  | .doubleWord48 => .instr (.framedDoubleWord48 ps)
  | .quadWord64 => .instr (.framedQuadWord64 ps)
  | .extended => .instr (.framedExtended ps)
  | .reserved192 => .instr (.framedReserved192 ps)

/-- The decoder, total on any list of parcels: it decodes the instruction the list begins with. -/
def decode : List Parcel → DecodeResult
  | [] => .rejected .noParcel
  | p0 :: rest =>
    if (p0 :: rest).length < (classify p0).2 then .rejected .truncated
    else decodeAs p0 ((p0 :: rest).take (classify p0).2) (classify p0).1

/-! ### Bytes -/

/-- `n` bytes, in stream order, combined into one value (R63): the first byte is the lowest with `little`, the
highest with `big`. -/
def combineBytes (w : Nat) (o : ByteOrder) (bs : List Byte) : BitVec w :=
  (match o with
   | .little => bs
   | .big => bs.reverse).foldr (fun (b : Byte) acc => acc <<< 8 ||| b.setWidth w) 0

/-- The two bytes of a parcel in stream order. -/
def bytesOfParcel (o : ByteOrder) (p : Parcel) : List Byte :=
  match o with
  | .little => [p.extractLsb' 0 8, p.extractLsb' 8 8]
  | .big => [p.extractLsb' 8 8, p.extractLsb' 0 8]

/-- The parcels of a byte list; an odd trailing byte forms none (R67). -/
def parcelsOfBytes (o : ByteOrder) : List Byte → List Parcel
  | b0 :: b1 :: rest => combineBytes 16 o [b0, b1] :: parcelsOfBytes o rest
  | _ => []

/-- The decoder on bytes in stream order. -/
def decodeBytes (o : ByteOrder) (bs : List Byte) : DecodeResult := decode (parcelsOfBytes o bs)

/-! ### The encoder: the parcels of a well-formed instruction, by the format tables R112 and R122 -/

/-- A 32-bit instruction as its two parcels, low half first (R65). -/
def halves (i : Word) : List Parcel := [i.extractLsb' 0 16, i.extractLsb' 16 16]

def wordR (f7 : BitVec 7) (rs2 rs1 : Reg) (f3 : BitVec 3) (rd : Reg) (op : BitVec 7) : Word :=
  cat 32 f7 (cat 25 rs2 (cat 20 rs1 (cat 15 f3 (cat 12 rd op))))

def wordI (imm : BitVec 12) (rs1 : Reg) (f3 : BitVec 3) (rd : Reg) (op : BitVec 7) : Word :=
  cat 32 imm (cat 20 rs1 (cat 15 f3 (cat 12 rd op)))

def wordS (imm : BitVec 12) (rs2 rs1 : Reg) (f3 : BitVec 3) (op : BitVec 7) : Word :=
  cat 32 (imm.extractLsb' 5 7) (cat 25 rs2 (cat 20 rs1 (cat 15 f3 (cat 12 (imm.extractLsb' 0 5) op))))

def wordB (imm : BitVec 13) (rs2 rs1 : Reg) (f3 : BitVec 3) (op : BitVec 7) : Word :=
  cat 32 (imm.extractLsb' 12 1) (cat 31 (imm.extractLsb' 5 6) (cat 25 rs2 (cat 20 rs1 (cat 15 f3
    (cat 12 (imm.extractLsb' 1 4) (cat 8 (imm.extractLsb' 11 1) op))))))

def wordU (imm : BitVec 32) (rd : Reg) (op : BitVec 7) : Word :=
  cat 32 (imm.extractLsb' 12 20) (cat 12 rd op)

def wordJ (imm : BitVec 21) (rd : Reg) (op : BitVec 7) : Word :=
  cat 32 (imm.extractLsb' 20 1) (cat 31 (imm.extractLsb' 1 10) (cat 21 (imm.extractLsb' 11 1)
    (cat 20 (imm.extractLsb' 12 8) (cat 12 rd op))))

/-- CR: `funct4`, `rd/rs1`, `rs2`, quadrant. -/
def parcelCr (f4 : BitVec 4) (rd rs2 : Reg) (q : BitVec 2) : Parcel := cat 16 f4 (cat 12 rd (cat 7 rs2 q))

/-- CI: `funct3`, bit 12, `rd/rs1`, bits 6:2, quadrant. -/
def parcelCi (f3 : BitVec 3) (hi : BitVec 1) (rd : Reg) (lo : BitVec 5) (q : BitVec 2) : Parcel :=
  cat 16 f3 (cat 13 hi (cat 12 rd (cat 7 lo q)))

/-- CSS: `funct3`, bits 12:7, `rs2`, quadrant. -/
def parcelCss (f3 : BitVec 3) (imm : BitVec 6) (rs2 : Reg) (q : BitVec 2) : Parcel :=
  cat 16 f3 (cat 13 imm (cat 7 rs2 q))

/-- CIW: `funct3`, bits 12:5, `rd'`, quadrant. -/
def parcelCiw (f3 : BitVec 3) (imm : BitVec 8) (rd : CReg) (q : BitVec 2) : Parcel :=
  cat 16 f3 (cat 13 imm (cat 5 rd q))

/-- CL and CS: `funct3`, bits 12:10, `rs1'`, bits 6:5, `rd'` or `rs2'`, quadrant. -/
def parcelCl (f3 : BitVec 3) (hi : BitVec 3) (rs1 : CReg) (lo : BitVec 2) (rd : CReg) (q : BitVec 2) : Parcel :=
  cat 16 f3 (cat 13 hi (cat 10 rs1 (cat 7 lo (cat 5 rd q))))

/-- The 4-aligned offset of the CL and CS formats: bits 12:10 are `uimm[5:3]`, bit 6 `uimm[2]`, bit 5 `uimm[6]`. -/
def parcelClWord (f3 : BitVec 3) (imm : BitVec 7) (rs1 rd : CReg) : Parcel :=
  parcelCl f3 (imm.extractLsb' 3 3) rs1 (cat 2 (imm.extractLsb' 2 1) (imm.extractLsb' 6 1)) rd 0b00#2

/-- The 8-aligned offset of the CL and CS formats: bits 12:10 are `uimm[5:3]`, bits 6:5 `uimm[7:6]`. -/
def parcelClDouble (f3 : BitVec 3) (imm : BitVec 8) (rs1 rd : CReg) : Parcel :=
  parcelCl f3 (imm.extractLsb' 3 3) rs1 (imm.extractLsb' 6 2) rd 0b00#2

/-- CA: `funct6`, `rd'/rs1'`, `funct2b`, `rs2'`, quadrant. -/
def parcelCa (f6 : BitVec 6) (rd : CReg) (f2 : BitVec 2) (rs2 : CReg) (q : BitVec 2) : Parcel :=
  cat 16 f6 (cat 10 rd (cat 7 f2 (cat 5 rs2 q)))

/-- CB with a branch offset: bit 12 is `offset[8]`, 11:10 `offset[4:3]`, 6:5 `offset[7:6]`, 4:3 `offset[2:1]`,
2 `offset[5]`. -/
def parcelCb (f3 : BitVec 3) (imm : BitVec 9) (rs1 : CReg) (q : BitVec 2) : Parcel :=
  cat 16 f3 (cat 13 (imm.extractLsb' 8 1) (cat 12 (imm.extractLsb' 3 2) (cat 10 rs1
    (cat 7 (imm.extractLsb' 6 2) (cat 5 (imm.extractLsb' 1 2) (cat 3 (imm.extractLsb' 5 1) q))))))

/-- CB with an immediate: bit 12 is `imm[5]`, 11:10 `funct2`, 6:2 `imm[4:0]`. -/
def parcelCbImm (f3 : BitVec 3) (imm : BitVec 6) (f2 : BitVec 2) (rd : CReg) (q : BitVec 2) : Parcel :=
  cat 16 f3 (cat 13 (imm.extractLsb' 5 1) (cat 12 f2 (cat 10 rd (cat 7 (imm.extractLsb' 0 5) q))))

/-- CJ: bit 12 is `offset[11]`, 11 `offset[4]`, 10:9 `offset[9:8]`, 8 `offset[10]`, 7 `offset[6]`, 6 `offset[7]`,
5:3 `offset[3:1]`, 2 `offset[5]`. -/
def parcelCj (f3 : BitVec 3) (imm : BitVec 12) (q : BitVec 2) : Parcel :=
  cat 16 f3 (cat 13 (imm.extractLsb' 11 1) (cat 12 (imm.extractLsb' 4 1) (cat 11 (imm.extractLsb' 8 2)
    (cat 9 (imm.extractLsb' 10 1) (cat 8 (imm.extractLsb' 6 1) (cat 7 (imm.extractLsb' 7 1)
    (cat 6 (imm.extractLsb' 1 3) (cat 3 (imm.extractLsb' 5 1) q))))))))

/-- A signed 6-bit CI immediate or a 6-bit shift amount: bit 12 is bit 5, bits 6:2 are bits 4:0. -/
def parcelCi6 (f3 : BitVec 3) (imm : BitVec 6) (rd : Reg) (q : BitVec 2) : Parcel :=
  parcelCi f3 (imm.extractLsb' 5 1) rd (imm.extractLsb' 0 5) q

/-- A 4-aligned stack load offset: bit 12 is `uimm[5]`, 6:4 `uimm[4:2]`, 3:2 `uimm[7:6]`. -/
def parcelCiWord (f3 : BitVec 3) (imm : BitVec 8) (rd : Reg) : Parcel :=
  parcelCi f3 (imm.extractLsb' 5 1) rd (cat 5 (imm.extractLsb' 2 3) (imm.extractLsb' 6 2)) 0b10#2

/-- `encode i`: the parcels of `i`, first parcel first. A bit the block does not read is 0. -/
def encode : Instr → List Parcel
  | .lui rd imm => halves (wordU imm rd 0b0110111#7)
  | .auipc rd imm => halves (wordU imm rd 0b0010111#7)
  | .jal rd imm => halves (wordJ imm rd 0b1101111#7)
  | .jalr rd rs1 imm => halves (wordI imm rs1 0b000#3 rd 0b1100111#7)
  | .lb rd rs1 imm => halves (wordI imm rs1 0b000#3 rd 0b0000011#7)
  | .lh rd rs1 imm => halves (wordI imm rs1 0b001#3 rd 0b0000011#7)
  | .lw rd rs1 imm => halves (wordI imm rs1 0b010#3 rd 0b0000011#7)
  | .lbu rd rs1 imm => halves (wordI imm rs1 0b100#3 rd 0b0000011#7)
  | .lhu rd rs1 imm => halves (wordI imm rs1 0b101#3 rd 0b0000011#7)
  | .sb rs1 rs2 imm => halves (wordS imm rs2 rs1 0b000#3 0b0100011#7)
  | .sh rs1 rs2 imm => halves (wordS imm rs2 rs1 0b001#3 0b0100011#7)
  | .sw rs1 rs2 imm => halves (wordS imm rs2 rs1 0b010#3 0b0100011#7)
  | .beq rs1 rs2 imm => halves (wordB imm rs2 rs1 0b000#3 0b1100011#7)
  | .bne rs1 rs2 imm => halves (wordB imm rs2 rs1 0b001#3 0b1100011#7)
  | .blt rs1 rs2 imm => halves (wordB imm rs2 rs1 0b100#3 0b1100011#7)
  | .bge rs1 rs2 imm => halves (wordB imm rs2 rs1 0b101#3 0b1100011#7)
  | .bltu rs1 rs2 imm => halves (wordB imm rs2 rs1 0b110#3 0b1100011#7)
  | .bgeu rs1 rs2 imm => halves (wordB imm rs2 rs1 0b111#3 0b1100011#7)
  | .addi rd rs1 imm => halves (wordI imm rs1 0b000#3 rd 0b0010011#7)
  | .slti rd rs1 imm => halves (wordI imm rs1 0b010#3 rd 0b0010011#7)
  | .sltiu rd rs1 imm => halves (wordI imm rs1 0b011#3 rd 0b0010011#7)
  | .xori rd rs1 imm => halves (wordI imm rs1 0b100#3 rd 0b0010011#7)
  | .ori rd rs1 imm => halves (wordI imm rs1 0b110#3 rd 0b0010011#7)
  | .andi rd rs1 imm => halves (wordI imm rs1 0b111#3 rd 0b0010011#7)
  | .slli rd rs1 shamt => halves (wordR 0b0000000#7 shamt rs1 0b001#3 rd 0b0010011#7)
  | .srli rd rs1 shamt => halves (wordR 0b0000000#7 shamt rs1 0b101#3 rd 0b0010011#7)
  | .srai rd rs1 shamt => halves (wordR 0b0100000#7 shamt rs1 0b101#3 rd 0b0010011#7)
  | .add rd rs1 rs2 => halves (wordR 0b0000000#7 rs2 rs1 0b000#3 rd 0b0110011#7)
  | .sub rd rs1 rs2 => halves (wordR 0b0100000#7 rs2 rs1 0b000#3 rd 0b0110011#7)
  | .sll rd rs1 rs2 => halves (wordR 0b0000000#7 rs2 rs1 0b001#3 rd 0b0110011#7)
  | .slt rd rs1 rs2 => halves (wordR 0b0000000#7 rs2 rs1 0b010#3 rd 0b0110011#7)
  | .sltu rd rs1 rs2 => halves (wordR 0b0000000#7 rs2 rs1 0b011#3 rd 0b0110011#7)
  | .xor rd rs1 rs2 => halves (wordR 0b0000000#7 rs2 rs1 0b100#3 rd 0b0110011#7)
  | .srl rd rs1 rs2 => halves (wordR 0b0000000#7 rs2 rs1 0b101#3 rd 0b0110011#7)
  | .sra rd rs1 rs2 => halves (wordR 0b0100000#7 rs2 rs1 0b101#3 rd 0b0110011#7)
  | .or rd rs1 rs2 => halves (wordR 0b0000000#7 rs2 rs1 0b110#3 rd 0b0110011#7)
  | .and rd rs1 rs2 => halves (wordR 0b0000000#7 rs2 rs1 0b111#3 rd 0b0110011#7)
  | .csrrw rd rs1 csr => halves (wordI csr rs1 0b001#3 rd 0b1110011#7)
  | .csrrs rd rs1 csr => halves (wordI csr rs1 0b010#3 rd 0b1110011#7)
  | .csrrc rd rs1 csr => halves (wordI csr rs1 0b011#3 rd 0b1110011#7)
  | .csrrwi rd rs1 csr => halves (wordI csr rs1 0b101#3 rd 0b1110011#7)
  | .csrrsi rd rs1 csr => halves (wordI csr rs1 0b110#3 rd 0b1110011#7)
  | .csrrci rd rs1 csr => halves (wordI csr rs1 0b111#3 rd 0b1110011#7)
  | .ecall => halves (wordI 0x000#12 0#5 0b000#3 0#5 0b1110011#7)
  | .ebreak => halves (wordI 0x001#12 0#5 0b000#3 0#5 0b1110011#7)
  | .uret => halves (wordI 0x002#12 0#5 0b000#3 0#5 0b1110011#7)
  | .sret => halves (wordI 0x102#12 0#5 0b000#3 0#5 0b1110011#7)
  | .mret => halves (wordI 0x302#12 0#5 0b000#3 0#5 0b1110011#7)
  | .wfi => halves (wordI 0x105#12 0#5 0b000#3 0#5 0b1110011#7)
  | .fence flags => halves (wordI (cat 12 0#4 flags) 0#5 0b000#3 0#5 0b0001111#7)
  | .fenceI => halves (wordI 0#12 0#5 0b001#3 0#5 0b0001111#7)
  -- CIW: bits 12:11 are `uimm[5:4]`, 10:7 `uimm[9:6]`, 6 `uimm[2]`, 5 `uimm[3]`
  | .cAddi4spn rd imm =>
    [parcelCiw 0b000#3 (cat 8 (imm.extractLsb' 4 2) (cat 6 (imm.extractLsb' 6 4)
      (cat 2 (imm.extractLsb' 2 1) (imm.extractLsb' 3 1)))) rd 0b00#2]
  | .cFld rd rs1 imm => [parcelClDouble 0b001#3 imm rs1 rd]
  | .cLw rd rs1 imm => [parcelClWord 0b010#3 imm rs1 rd]
  | .cFlw rd rs1 imm => [parcelClWord 0b011#3 imm rs1 rd]
  | .cFsd rs1 rs2 imm => [parcelClDouble 0b101#3 imm rs1 rs2]
  | .cSw rs1 rs2 imm => [parcelClWord 0b110#3 imm rs1 rs2]
  | .cFsw rs1 rs2 imm => [parcelClWord 0b111#3 imm rs1 rs2]
  | .cAddi rd imm => [parcelCi6 0b000#3 imm rd 0b01#2]
  | .cJal imm => [parcelCj 0b001#3 imm 0b01#2]
  | .cLi rd imm => [parcelCi6 0b010#3 imm rd 0b01#2]
  -- bit 12 is `nzimm[9]`, 6 `nzimm[4]`, 5 `nzimm[6]`, 4:3 `nzimm[8:7]`, 2 `nzimm[5]`
  | .cAddi16sp imm =>
    [parcelCi 0b011#3 (imm.extractLsb' 9 1) 2#5
      (cat 5 (imm.extractLsb' 4 1) (cat 4 (imm.extractLsb' 6 1)
        (cat 3 (imm.extractLsb' 7 2) (imm.extractLsb' 5 1)))) 0b01#2]
  -- bit 12 is `nzimm[17]`, 6:2 `nzimm[16:12]`
  | .cLui rd imm => [parcelCi 0b011#3 (imm.extractLsb' 17 1) rd (imm.extractLsb' 12 5) 0b01#2]
  | .cAndi rd imm => [parcelCbImm 0b100#3 imm 0b10#2 rd 0b01#2]
  | .cSub rd rs2 => [parcelCa 0b100011#6 rd 0b00#2 rs2 0b01#2]
  | .cXor rd rs2 => [parcelCa 0b100011#6 rd 0b01#2 rs2 0b01#2]
  | .cOr rd rs2 => [parcelCa 0b100011#6 rd 0b10#2 rs2 0b01#2]
  | .cAnd rd rs2 => [parcelCa 0b100011#6 rd 0b11#2 rs2 0b01#2]
  | .cJ imm => [parcelCj 0b101#3 imm 0b01#2]
  | .cBeqz rs1 imm => [parcelCb 0b110#3 imm rs1 0b01#2]
  | .cBnez rs1 imm => [parcelCb 0b111#3 imm rs1 0b01#2]
  | .cSlli rd shamt => [parcelCi6 0b000#3 shamt rd 0b10#2]
  | .cSlli64 rd => [parcelCi 0b000#3 0#1 rd 0#5 0b10#2]
  -- bit 12 is `uimm[5]`, 6:5 `uimm[4:3]`, 4:2 `uimm[8:6]`
  | .cFldsp rd imm =>
    [parcelCi 0b001#3 (imm.extractLsb' 5 1) rd (cat 5 (imm.extractLsb' 3 2) (imm.extractLsb' 6 3)) 0b10#2]
  | .cLwsp rd imm => [parcelCiWord 0b010#3 imm rd]
  | .cFlwsp rd imm => [parcelCiWord 0b011#3 imm rd]
  | .cJr rs1 => [parcelCr 0b1000#4 rs1 0#5 0b10#2]
  | .cMv rd rs2 => [parcelCr 0b1000#4 rd rs2 0b10#2]
  | .cEbreak => [parcelCr 0b1001#4 0#5 0#5 0b10#2]
  | .cJalr rs1 => [parcelCr 0b1001#4 rs1 0#5 0b10#2]
  | .cAdd rd rs2 => [parcelCr 0b1001#4 rd rs2 0b10#2]
  -- bits 12:10 are `uimm[5:3]`, 9:7 `uimm[8:6]`
  | .cFsdsp rs2 imm => [parcelCss 0b101#3 (cat 6 (imm.extractLsb' 3 3) (imm.extractLsb' 6 3)) rs2 0b10#2]
  -- bits 12:9 are `uimm[5:2]`, 8:7 `uimm[7:6]`
  | .cSwsp rs2 imm => [parcelCss 0b110#3 (cat 6 (imm.extractLsb' 2 4) (imm.extractLsb' 6 2)) rs2 0b10#2]
  | .cFswsp rs2 imm => [parcelCss 0b111#3 (cat 6 (imm.extractLsb' 2 4) (imm.extractLsb' 6 2)) rs2 0b10#2]
  | .framedDoubleWord48 ps => ps
  | .framedQuadWord64 ps => ps
  | .framedExtended ps => ps
  | .framedReserved192 ps => ps

/-- The bytes of an instruction in stream order. -/
def encodeBytes (o : ByteOrder) (i : Instr) : List Byte := (encode i).flatMap (bytesOfParcel o)

/-! ### The opcode table's words -/

/-- The longest instruction's parcels of a table word: bit 0 is the lowest bit of the first parcel (R65), the bits
from `nbits` on are 0. -/
def tableParcels (nbits w : Nat) : List Parcel :=
  (List.range Config.maxParcels).map fun k => BitVec.ofNat 16 ((w % 2 ^ nbits) >>> (16 * k))

/-- The bytes of a table word in stream order. -/
def tableBytes (o : ByteOrder) (nbits w : Nat) : List Byte := (tableParcels nbits w).flatMap (bytesOfParcel o)

/-- The instruction the decoder reads from a table word, its bytes laid out little-endian, the RISC-V order (R7). -/
def decodeTableWord (nbits w : Nat) : Option Instr :=
  match decodeBytes .little (tableBytes .little nbits w) with
  | .instr i => some i
  | .rejected _ => none

end Sys2Proof
end

