-- ==== Sys2Proof/Machine/Ops.lean ====
section
/-! DEFINITION. The named operations over the machine's state: reading the byte source (spec 20_memory.md rules R60
to R68), fetching one instruction's parcels (10_state.md rule R41), delivering an event (rules R30 and R44), ending
the pass cleanly (rule R42), the abort, which plays the part of taking an exception (60_exceptions.md rules R503 and
R510), and reset as the start of a pass, the only way on from an ended one (70_reset_and_hazards.md rules R560 and
R561; the block has no return from an abort, rule R511). -/

namespace Sys2Proof.Machine

/-! ### The stream -/

/-- The byte at a stream offset; `none` past the end of the stream. -/
def Memory.byteAt : Memory → Nat → Option Byte
  | [], _ => none
  | (k, b) :: m, a => if k = a then some b else Memory.byteAt m a

/-- The `n` bytes from offset `a` on, if the stream holds them all. -/
def Memory.bytesFrom (m : Memory) (a : Nat) : Nat → Option (List Byte)
  | 0 => some []
  | n + 1 =>
    match Memory.byteAt m a, Memory.bytesFrom m (a + 1) n with
    | some b, some bs => some (b :: bs)
    | _, _ => none

/-- How many of the `n` bytes from offset `a` on the stream holds: the `k` of `Eof(k)` (R61). -/
def Memory.available (m : Memory) (a : Nat) : Nat → Nat
  | 0 => 0
  | n + 1 => if (Memory.byteAt m a).isSome then Memory.available m (a + 1) n + 1 else 0

/-- The cells' offsets are `a, a + 1, …` in order. -/
def Memory.risesFrom (a : Nat) : Memory → Bool
  | [] => true
  | (k, _) :: m => k == a && Memory.risesFrom (a + 1) m

/-- The canonical form: the cells are the offsets `0, …, L - 1` in order (R61, R62). -/
def Memory.wf (m : Memory) : Bool := Memory.risesFrom 0 m

/-- The cells of a byte list from offset `a` on. -/
def Memory.ofBytesAt (a : Nat) : List Byte → Memory
  | [] => []
  | b :: bs => (a, b) :: Memory.ofBytesAt (a + 1) bs

/-- The stream of a byte list. -/
def Memory.ofBytes (bs : List Byte) : Memory := Memory.ofBytesAt 0 bs

/-- The bytes of a stream, in order. -/
def Memory.toBytes (m : Memory) : List Byte := m.map (fun cell => cell.2)

/-- The stream with `bs` at offset `a`, as the host loads it; bytes between the stream's end and `a`, if any, are 0.
The block itself never writes the stream (R15). -/
def Memory.place (m : Memory) (a : Nat) (bs : List Byte) : Memory :=
  let old := Memory.toBytes m
  Memory.ofBytes ((old.take a ++ List.replicate (a - old.length) 0) ++ bs ++ old.drop (a + bs.length))

/-! ### The byte source's reads -/

/-- The byte source never answers a read at this offset (R80). -/
def ByteSource.silentAt (src : ByteSource) (a : Nat) : Bool :=
  match src.silentFrom with
  | none => false
  | some b => decide (b ≤ a)

/-- `MemRead(addr, n)` (R61); `none` is a read that is never answered (R80). -/
def ByteSource.memRead (src : ByteSource) (a n : Nat) : Option MemAnswer :=
  if src.silentAt a then none
  else
    match Memory.bytesFrom src.bytes a n with
    | some bs => some (.ok bs)
    | none =>
      match src.terminator with
      | .eof => some (.eof (Memory.available src.bytes a n))
      | .ioError => some .ioError

/-- A value of `w` bits read as the `n` bytes at an offset, in a byte order: `MemRead` with its bytes combined, its
failures passed on (R63). -/
def ByteSource.readValue (src : ByteSource) (w : Nat) (o : ByteOrder) (a n : Nat) : Option (SourceAnswer (BitVec w)) :=
  match src.memRead a n with
  | none => none
  | some (.ok bs) => some (.ok (combineBytes w o bs))
  | some (.eof k) => some (.eof k)
  | some .ioError => some .ioError

/-- `ReadParcel(addr)` (R63). -/
def ByteSource.readParcel (src : ByteSource) (o : ByteOrder) (a : Nat) : Option ReadAnswer := src.readValue 16 o a 2

/-- The source after a read at offset `a` returned `n` bytes: its cursor is past them (R68). -/
def ByteSource.advance (src : ByteSource) (a n : Nat) : ByteSource := { src with cursor := a + n }

/-- One read of the contract (R60): the `n` bytes at the source's own cursor, and the source after the read. A read that
is answered `Eof` or `IoError` returns no bytes and leaves the cursor (R68); `none` is a read that is never answered. -/
def ByteSource.readNext (src : ByteSource) (w : Nat) (o : ByteOrder) (n : Nat) :
    Option (SourceAnswer (BitVec w) × ByteSource) :=
  match src.readValue w o src.cursor n with
  | none => none
  | some (.ok v) => some (.ok v, src.advance src.cursor n)
  | some (.eof k) => some (.eof k, src)
  | some .ioError => some (.ioError, src)

/-- `read_u8`, `read_u16` and `read_u32` of the contract (R60). Every read the block issues is a `read_u16` at its
cursor's offset (R64, R66, R68); it issues no other. The order of one byte is either. -/
def ByteSource.readU8 (src : ByteSource) : Option (SourceAnswer Byte × ByteSource) := src.readNext 8 .little 1
def ByteSource.readU16 (src : ByteSource) (o : ByteOrder) : Option (SourceAnswer Parcel × ByteSource) :=
  src.readNext 16 o 2
def ByteSource.readU32 (src : ByteSource) (o : ByteOrder) : Option (SourceAnswer Word × ByteSource) :=
  src.readNext 32 o 4

/-! ### Fetching -/

/-- The state after the read at offset `a` was answered with `r`: the read is on the input port; a parcel read goes
into the buffer (R41) and the source's cursor past its bytes (R68). -/
def State.noteRead (s : State) (a : Nat) (r : ReadAnswer) : State :=
  match r with
  | .ok p =>
    { s with
      reads := s.reads ++ [{ offset := a, answer := r }]
      source := s.source.advance a 2
      buffer := s.buffer ++ [p] }
  | .eof _ => { s with reads := s.reads ++ [{ offset := a, answer := r }] }
  | .ioError => { s with reads := s.reads ++ [{ offset := a, answer := r }] }

/-- The read the block issues at offset `a`. -/
def State.answerAt (s : State) (a : Nat) : Option ReadAnswer := s.source.readParcel s.params.byteOrder a

/-- How the reads of one step end. -/
inductive Fetched where
  /-- all parcels of the instruction are in the buffer -/
  | complete (s : State)
  /-- the stream is exhausted with no byte left at the step's start (R42) -/
  | endOfStream (s : State)
  /-- a read failed (R502, R505) -/
  | failed (kind : ErrorKind) (s : State)
  /-- the read at this offset is never answered (R80) -/
  | unanswered (offset : Nat)
  deriving DecidableEq, Repr

/-- The `n` further reads of a step, from offset `a` on (R41, R70). -/
def fetchRest : Nat → Nat → State → Fetched
  | 0, _, s => .complete s
  | n + 1, a, s =>
    match s.answerAt a with
    | none => .unanswered a
    | some (.ok p) => fetchRest n (a + 2) (s.noteRead a (.ok p))
    | some (.eof k) => .failed .truncatedInstruction (s.noteRead a (.eof k))
    | some .ioError => .failed .ioFailure (s.noteRead a .ioError)

/-- The reads of one step (R41): the first parcel at `ptr` with an empty buffer, then as many as its class needs. -/
def fetch (s : State) : Fetched :=
  let s0 := { s with buffer := [] }
  match s0.answerAt s.ptr with
  | none => .unanswered s.ptr
  | some (.ok p0) => fetchRest ((classify p0).2 - 1) (s.ptr + 2) (s0.noteRead s.ptr (.ok p0))
  | some (.eof 0) => .endOfStream (s0.noteRead s.ptr (.eof 0))
  | some (.eof (k + 1)) => .failed .truncatedInstruction (s0.noteRead s.ptr (.eof (k + 1)))   -- R67
  | some .ioError => .failed .ioFailure (s0.noteRead s.ptr .ioError)

/-! ### The end of a step -/

/-- The offset the block reports: `ptr mod 2^PTR_WIDTH` (R9, R20). -/
def reportOffset (w : PtrWidth) (a : Nat) : Nat :=
  match w with
  | .bits n _ => a % 2 ^ n
  | .unbounded => a

/-- `raw` (R30): `Σ_{k<n} parcels[k] << 16k`. -/
def rawOf : List Parcel → Raw
  | [] => 0
  | p :: ps => rawOf ps <<< 16 ||| p.setWidth 192

/-- The event of an instruction of category `cat` and `n` parcels whose parcels are in the buffer (R30). -/
def State.eventOf (s : State) (cat : Category) (n : Nat) (d : Option Decoded) : Event :=
  { offset := reportOffset s.params.ptrWidth s.ptr
    category := cat
    length := 2 * n
    parcels := s.buffer
    raw := rawOf s.buffer
    decoded := d }

/-- `emit Event(...)` and `ptr <- a + 2n` (R41, R44); the buffer is emptied (R23). -/
def State.deliver (s : State) (cat : Category) (n : Nat) (d : Option Decoded) : State :=
  { s with
    events := s.events ++ [s.eventOf cat n d]
    ptr := s.ptr + 2 * n
    buffer := [] }

/-- The clean end of the pass (R42): `status <- Done(ptr)`, reported on the outcome port. -/
def State.finish (s : State) : State :=
  { s with
    status := .done s.ptr
    outcome := some (.done s.ptr)
    buffer := [] }

/-- The error record (R503): the offset is that of the step's start, the parcels those read before the error. -/
def State.errorRecord (s : State) (kind : ErrorKind) (tuple : Option DiagTuple) : ErrorRecord :=
  { kind := kind
    offset := reportOffset s.params.ptrWidth s.ptr
    parcels := s.buffer
    tuple := tuple }

/-- `raise E(info)` (R510): `status <- Aborted(e)`, `e` on the outcome port; `ptr` stays (R508). This is the block's
whole exception entry: no state is saved elsewhere, there is no mode, mask or vector. -/
def State.abort (s : State) (kind : ErrorKind) (tuple : Option DiagTuple) : State :=
  { s with
    status := .aborted (s.errorRecord kind tuple)
    outcome := some (.error (s.errorRecord kind tuple))
    buffer := [] }

/-- The abort of a decode that gave no instruction. `noParcel` and `truncated` never follow a complete fetch. -/
def State.reject (s : State) : DecodeError → State
  | .noParcel => s.abort .truncatedInstruction none
  | .truncated => s.abort .truncatedInstruction none
  | .malformed t => s.abort .malformedEncoding (some t)

/-- The code of an error kind and of a pass outcome (R500). -/
def ErrorKind.code : ErrorKind → Nat
  | .truncatedInstruction => 1
  | .malformedEncoding => 2
  | .ioFailure => 3

def PassOutcome.code : PassOutcome → Nat
  | .done _ => 0
  | .error e => e.kind.code

/-! ### Passes -/

/-- The observation of a pass (R45): the emitted events, then the one outcome. -/
def State.observation (s : State) : List Event × Option PassOutcome := (s.events, s.outcome)

/-- Reset with the host's parameters and stream (R560, R562). -/
def startPass (params : Params) (bytes : List Byte) (terminator : Terminator) (silentFrom : Option Nat) : State :=
  { State.reset with
    params := params
    source := { bytes := Memory.ofBytes bytes, terminator := terminator, cursor := 0, silentFrom := silentFrom } }

/-- A reset at any time (R561): what was delivered stays delivered, and a new pass starts at offset 0 of the stream
the host then presents. The old pass leaves nothing in the new state (R22). -/
def State.restart (s : State) (params : Params) (bytes : List Byte) (terminator : Terminator)
    (silentFrom : Option Nat) : (List Event × Option PassOutcome) × State :=
  (s.observation, startPass params bytes terminator silentFrom)

/-- The host's placing of a table word at the next fetch (the Step file's `withFetchWord`): its bytes at `ptr`, in
the pass's byte order, a source that answers, and a pass that goes on. -/
def State.placeWord (s : State) (nbits w : Nat) : State :=
  { s with
    source := { s.source with
      bytes := Memory.place s.source.bytes s.ptr (tableBytes s.params.byteOrder nbits w)
      silentFrom := none }
    status := .running }

end Sys2Proof.Machine
end

