-- ==== Sys2Proof/Machine/Operands.lean ====
section
/-! DEFINITION. The operands of a `Decoded` record (spec 10_state.md rules R31 to R33): the extension of an
extracted field to its 32-bit output (30_encoding.md rule R130), the register mapping (rule R121), one builder per
operand form (rule R33), the mnemonic codes and names (rule R32), and the delivery of each kind of instruction. -/

namespace Sys2Proof.Machine

/-! ### Extension and register mapping -/

/-- `sext_32` (R13, R131): two's complement. -/
def sext32 {w : Nat} (v : BitVec w) : Word := v.signExtend 32

/-- `zext_32` (R13). -/
def zext32 {w : Nat} (v : BitVec w) : Word := v.setWidth 32

/-- A compressed register field `r'` names register `8 + r'` (R121). -/
def creg (r : CReg) : Reg := 8#5 + r.setWidth 5

/-! ### Operand forms -/

/-- The operand forms of R33. -/
inductive OperandForm where
  /-- NONE -/
  | noOperand
  /-- RD_IMM -/
  | rdImm
  /-- RD_RS1_IMM -/
  | rdRs1Imm
  /-- RD_RS1_CSR -/
  | rdRs1Csr
  /-- RD_RS1_SHAMT -/
  | rdRs1Shamt
  /-- RS1_RS2_IMM -/
  | rs1Rs2Imm
  /-- RD_RS1_RS2 -/
  | rdRs1Rs2
  /-- FENCE -/
  | fence
  /-- IMM -/
  | imm
  /-- RS1_IMM -/
  | rs1Imm
  /-- RD_RS2 -/
  | rdRs2
  /-- RS1 -/
  | rs1
  /-- RS2_IMM -/
  | rs2Imm
  /-- RD_SHAMT -/
  | rdShamt
  /-- RD -/
  | rd
  deriving DecidableEq, Repr

/-- The operand fields of a `Decoded` record (R31). -/
inductive OperandField where
  | rd | rs1 | rs2 | imm | fence
  deriving DecidableEq, Repr

/-- The fields a form presents, in operand order (R33, R179). `shamt` and `csr` are the `imm` field. -/
def OperandForm.fields : OperandForm → List OperandField
  | .noOperand => []
  | .rdImm => [.rd, .imm]
  | .rdRs1Imm => [.rd, .rs1, .imm]
  | .rdRs1Csr => [.rd, .rs1, .imm]
  | .rdRs1Shamt => [.rd, .rs1, .imm]
  | .rs1Rs2Imm => [.rs1, .rs2, .imm]
  | .rdRs1Rs2 => [.rd, .rs1, .rs2]
  | .fence => [.fence]
  | .imm => [.imm]
  | .rs1Imm => [.rs1, .imm]
  | .rdRs2 => [.rd, .rs2]
  | .rs1 => [.rs1]
  | .rs2Imm => [.rs2, .imm]
  | .rdShamt => [.rd, .imm]
  | .rd => [.rd]

/-- The operand form of each mnemonic (R33). -/
def formOf : Mnemonic → OperandForm
  | .lui => .rdImm
  | .auipc => .rdImm
  | .jal => .rdImm
  | .jalr => .rdRs1Imm
  | .lb => .rdRs1Imm
  | .lh => .rdRs1Imm
  | .lw => .rdRs1Imm
  | .lbu => .rdRs1Imm
  | .lhu => .rdRs1Imm
  | .sb => .rs1Rs2Imm
  | .sh => .rs1Rs2Imm
  | .sw => .rs1Rs2Imm
  | .beq => .rs1Rs2Imm
  | .bne => .rs1Rs2Imm
  | .blt => .rs1Rs2Imm
  | .bge => .rs1Rs2Imm
  | .bltu => .rs1Rs2Imm
  | .bgeu => .rs1Rs2Imm
  | .addi => .rdRs1Imm
  | .slti => .rdRs1Imm
  | .sltiu => .rdRs1Imm
  | .xori => .rdRs1Imm
  | .ori => .rdRs1Imm
  | .andi => .rdRs1Imm
  | .slli => .rdRs1Shamt
  | .srli => .rdRs1Shamt
  | .srai => .rdRs1Shamt
  | .add => .rdRs1Rs2
  | .sub => .rdRs1Rs2
  | .sll => .rdRs1Rs2
  | .slt => .rdRs1Rs2
  | .sltu => .rdRs1Rs2
  | .xor => .rdRs1Rs2
  | .srl => .rdRs1Rs2
  | .sra => .rdRs1Rs2
  | .or => .rdRs1Rs2
  | .and => .rdRs1Rs2
  | .csrrw => .rdRs1Csr
  | .csrrs => .rdRs1Csr
  | .csrrc => .rdRs1Csr
  | .csrrwi => .rdRs1Csr
  | .csrrsi => .rdRs1Csr
  | .csrrci => .rdRs1Csr
  | .ecall => .noOperand
  | .ebreak => .noOperand
  | .uret => .noOperand
  | .sret => .noOperand
  | .mret => .noOperand
  | .wfi => .noOperand
  | .fence => .fence
  | .fenceI => .noOperand
  | .cAddi4spn => .rdImm
  | .cFld => .rdRs1Imm
  | .cLw => .rdRs1Imm
  | .cFlw => .rdRs1Imm
  | .cFsd => .rs1Rs2Imm
  | .cSw => .rs1Rs2Imm
  | .cFsw => .rs1Rs2Imm
  | .cAddi => .rdImm
  | .cJal => .imm
  | .cLi => .rdImm
  | .cAddi16sp => .rdImm
  | .cLui => .rdImm
  | .cAndi => .rdImm
  | .cSub => .rdRs2
  | .cXor => .rdRs2
  | .cOr => .rdRs2
  | .cAnd => .rdRs2
  | .cJ => .imm
  | .cBeqz => .rs1Imm
  | .cBnez => .rs1Imm
  | .cSlli => .rdShamt
  | .cSlli64 => .rd
  | .cFldsp => .rdImm
  | .cLwsp => .rdImm
  | .cFlwsp => .rdImm
  | .cJr => .rs1
  | .cMv => .rdRs2
  | .cEbreak => .noOperand
  | .cJalr => .rs1
  | .cAdd => .rdRs2
  | .cFsdsp => .rs2Imm
  | .cSwsp => .rs2Imm
  | .cFswsp => .rs2Imm

/-- The numeric code of each mnemonic (R32). -/
def mnemonicCode : Mnemonic → Nat
  | .lui => 0
  | .auipc => 1
  | .jal => 2
  | .jalr => 3
  | .lb => 4
  | .lh => 5
  | .lw => 6
  | .lbu => 7
  | .lhu => 8
  | .sb => 9
  | .sh => 10
  | .sw => 11
  | .beq => 12
  | .bne => 13
  | .blt => 14
  | .bge => 15
  | .bltu => 16
  | .bgeu => 17
  | .addi => 18
  | .slti => 19
  | .sltiu => 20
  | .xori => 21
  | .ori => 22
  | .andi => 23
  | .slli => 24
  | .srli => 25
  | .srai => 26
  | .add => 27
  | .sub => 28
  | .sll => 29
  | .slt => 30
  | .sltu => 31
  | .xor => 32
  | .srl => 33
  | .sra => 34
  | .or => 35
  | .and => 36
  | .csrrw => 37
  | .csrrs => 38
  | .csrrc => 39
  | .csrrwi => 40
  | .csrrsi => 41
  | .csrrci => 42
  | .ecall => 43
  | .ebreak => 44
  | .uret => 45
  | .sret => 46
  | .mret => 47
  | .wfi => 48
  | .fence => 49
  | .fenceI => 50
  | .cAddi4spn => 51
  | .cFld => 52
  | .cLw => 53
  | .cFlw => 54
  | .cFsd => 55
  | .cSw => 56
  | .cFsw => 57
  | .cAddi => 58
  | .cJal => 59
  | .cLi => 60
  | .cAddi16sp => 61
  | .cLui => 62
  | .cAndi => 63
  | .cSub => 64
  | .cXor => 65
  | .cOr => 66
  | .cAnd => 67
  | .cJ => 68
  | .cBeqz => 69
  | .cBnez => 70
  | .cSlli => 71
  | .cSlli64 => 72
  | .cFldsp => 73
  | .cLwsp => 74
  | .cFlwsp => 75
  | .cJr => 76
  | .cMv => 77
  | .cEbreak => 78
  | .cJalr => 79
  | .cAdd => 80
  | .cFsdsp => 81
  | .cSwsp => 82
  | .cFswsp => 83

/-- The mnemonic string of each mnemonic (R32, R178). -/
def mnemonicName : Mnemonic → String
  | .lui => "lui"
  | .auipc => "auipc"
  | .jal => "jal"
  | .jalr => "jalr"
  | .lb => "lb"
  | .lh => "lh"
  | .lw => "lw"
  | .lbu => "lbu"
  | .lhu => "lhu"
  | .sb => "sb"
  | .sh => "sh"
  | .sw => "sw"
  | .beq => "beq"
  | .bne => "bne"
  | .blt => "blt"
  | .bge => "bge"
  | .bltu => "bltu"
  | .bgeu => "bgeu"
  | .addi => "addi"
  | .slti => "slti"
  | .sltiu => "sltiu"
  | .xori => "xori"
  | .ori => "ori"
  | .andi => "andi"
  | .slli => "slli"
  | .srli => "srli"
  | .srai => "srai"
  | .add => "add"
  | .sub => "sub"
  | .sll => "sll"
  | .slt => "slt"
  | .sltu => "sltu"
  | .xor => "xor"
  | .srl => "srl"
  | .sra => "sra"
  | .or => "or"
  | .and => "and"
  | .csrrw => "csrrw"
  | .csrrs => "csrrs"
  | .csrrc => "csrrc"
  | .csrrwi => "csrrwi"
  | .csrrsi => "csrrsi"
  | .csrrci => "csrrci"
  | .ecall => "ecall"
  | .ebreak => "ebreak"
  | .uret => "uret"
  | .sret => "sret"
  | .mret => "mret"
  | .wfi => "wfi"
  | .fence => "fence"
  | .fenceI => "fence.i"
  | .cAddi4spn => "c.addi4spn"
  | .cFld => "c.fld"
  | .cLw => "c.lw"
  | .cFlw => "c.flw"
  | .cFsd => "c.fsd"
  | .cSw => "c.sw"
  | .cFsw => "c.fsw"
  | .cAddi => "c.addi"
  | .cJal => "c.jal"
  | .cLi => "c.li"
  | .cAddi16sp => "c.addi16sp"
  | .cLui => "c.lui"
  | .cAndi => "c.andi"
  | .cSub => "c.sub"
  | .cXor => "c.xor"
  | .cOr => "c.or"
  | .cAnd => "c.and"
  | .cJ => "c.j"
  | .cBeqz => "c.beqz"
  | .cBnez => "c.bnez"
  | .cSlli => "c.slli"
  | .cSlli64 => "c.slli64"
  | .cFldsp => "c.fldsp"
  | .cLwsp => "c.lwsp"
  | .cFlwsp => "c.flwsp"
  | .cJr => "c.jr"
  | .cMv => "c.mv"
  | .cEbreak => "c.ebreak"
  | .cJalr => "c.jalr"
  | .cAdd => "c.add"
  | .cFsdsp => "c.fsdsp"
  | .cSwsp => "c.swsp"
  | .cFswsp => "c.fswsp"

/-! The record of each form: exactly the form's fields are present (R31). -/

def recordNone (m : Mnemonic) : Decoded := { mnemonic := m }
def recordRdImm (m : Mnemonic) (rd : Reg) (imm : Word) : Decoded := { mnemonic := m, rd := some rd, imm := some imm }
def recordRdRs1Imm (m : Mnemonic) (rd rs1 : Reg) (imm : Word) : Decoded :=
  { mnemonic := m, rd := some rd, rs1 := some rs1, imm := some imm }
def recordRs1Rs2Imm (m : Mnemonic) (rs1 rs2 : Reg) (imm : Word) : Decoded :=
  { mnemonic := m, rs1 := some rs1, rs2 := some rs2, imm := some imm }
def recordRdRs1Rs2 (m : Mnemonic) (rd rs1 rs2 : Reg) : Decoded :=
  { mnemonic := m, rd := some rd, rs1 := some rs1, rs2 := some rs2 }
def recordFence (m : Mnemonic) (flags : BitVec 8) : Decoded := { mnemonic := m, fence := some flags }
def recordImm (m : Mnemonic) (imm : Word) : Decoded := { mnemonic := m, imm := some imm }
def recordRs1Imm (m : Mnemonic) (rs1 : Reg) (imm : Word) : Decoded := { mnemonic := m, rs1 := some rs1, imm := some imm }
def recordRdRs2 (m : Mnemonic) (rd rs2 : Reg) : Decoded := { mnemonic := m, rd := some rd, rs2 := some rs2 }
def recordRs1 (m : Mnemonic) (rs1 : Reg) : Decoded := { mnemonic := m, rs1 := some rs1 }
def recordRs2Imm (m : Mnemonic) (rs2 : Reg) (imm : Word) : Decoded := { mnemonic := m, rs2 := some rs2, imm := some imm }
def recordRd (m : Mnemonic) (rd : Reg) : Decoded := { mnemonic := m, rd := some rd }

/-! The output ports of an operand field in a hardware realisation (R31): an absent field is driven 0 with its valid
bit 0. -/

def portValid {w : Nat} (f : Option (BitVec w)) : Bool := f.isSome
def portValue {w : Nat} (f : Option (BitVec w)) : BitVec w := f.getD 0

/-! ### Delivery -/

/-- A decoded 32-bit instruction: category `Word32`, two parcels (R102). -/
def emit32 (s : State) (d : Decoded) : Host.Outcome State Fault Refusal := .next (s.deliver .word32 2 (some d))

/-- A decoded 16-bit instruction: category `Compressed16`, one parcel (R101). -/
def emit16 (s : State) (d : Decoded) : Host.Outcome State Fault Refusal := .next (s.deliver .compressed16 1 (some d))

/-- A framed instruction of `n` parcels: no resolver is applied (R440). -/
def emitFramed (s : State) (cat : Category) (n : Nat) : Host.Outcome State Fault Refusal := .next (s.deliver cat n none)

end Sys2Proof.Machine
end

