-- ==== Sys2Proof/Machine/Alu.lean ====
section
/-! DEFINITION. The meanings of spec 42_rv32_alu.md: OP-IMM and OP.
The block executes nothing (00_scope.md rule R6): the meaning of an instruction is the event it delivers and the advance
of `ptr` by its length (10_state.md rules R41 and R44). -/

namespace Sys2Proof.Machine

/-- `addi` (R241). -/
def execAddi (rd rs1 : Reg) (imm : BitVec 12) (s : State) : Host.Outcome State Fault Refusal :=
  emit32 s (recordRdRs1Imm .addi rd rs1 (sext32 imm))

/-- `slti` (R242). -/
def execSlti (rd rs1 : Reg) (imm : BitVec 12) (s : State) : Host.Outcome State Fault Refusal :=
  emit32 s (recordRdRs1Imm .slti rd rs1 (sext32 imm))

/-- `sltiu` (R243). -/
def execSltiu (rd rs1 : Reg) (imm : BitVec 12) (s : State) : Host.Outcome State Fault Refusal :=
  emit32 s (recordRdRs1Imm .sltiu rd rs1 (sext32 imm))

/-- `xori` (R244). -/
def execXori (rd rs1 : Reg) (imm : BitVec 12) (s : State) : Host.Outcome State Fault Refusal :=
  emit32 s (recordRdRs1Imm .xori rd rs1 (sext32 imm))

/-- `ori` (R245). -/
def execOri (rd rs1 : Reg) (imm : BitVec 12) (s : State) : Host.Outcome State Fault Refusal :=
  emit32 s (recordRdRs1Imm .ori rd rs1 (sext32 imm))

/-- `andi` (R246). -/
def execAndi (rd rs1 : Reg) (imm : BitVec 12) (s : State) : Host.Outcome State Fault Refusal :=
  emit32 s (recordRdRs1Imm .andi rd rs1 (sext32 imm))

/-- `slli` (R247). -/
def execSlli (rd rs1 : Reg) (shamt : BitVec 5) (s : State) : Host.Outcome State Fault Refusal :=
  emit32 s (recordRdRs1Imm .slli rd rs1 (zext32 shamt))

/-- `srli` (R248). -/
def execSrli (rd rs1 : Reg) (shamt : BitVec 5) (s : State) : Host.Outcome State Fault Refusal :=
  emit32 s (recordRdRs1Imm .srli rd rs1 (zext32 shamt))

/-- `srai` (R249). -/
def execSrai (rd rs1 : Reg) (shamt : BitVec 5) (s : State) : Host.Outcome State Fault Refusal :=
  emit32 s (recordRdRs1Imm .srai rd rs1 (zext32 shamt))

/-- `add` (R252). -/
def execAdd (rd rs1 rs2 : Reg) (s : State) : Host.Outcome State Fault Refusal :=
  emit32 s (recordRdRs1Rs2 .add rd rs1 rs2)

/-- `sub` (R253). -/
def execSub (rd rs1 rs2 : Reg) (s : State) : Host.Outcome State Fault Refusal :=
  emit32 s (recordRdRs1Rs2 .sub rd rs1 rs2)

/-- `sll` (R254). -/
def execSll (rd rs1 rs2 : Reg) (s : State) : Host.Outcome State Fault Refusal :=
  emit32 s (recordRdRs1Rs2 .sll rd rs1 rs2)

/-- `slt` (R255). -/
def execSlt (rd rs1 rs2 : Reg) (s : State) : Host.Outcome State Fault Refusal :=
  emit32 s (recordRdRs1Rs2 .slt rd rs1 rs2)

/-- `sltu` (R256). -/
def execSltu (rd rs1 rs2 : Reg) (s : State) : Host.Outcome State Fault Refusal :=
  emit32 s (recordRdRs1Rs2 .sltu rd rs1 rs2)

/-- `xor` (R257). -/
def execXor (rd rs1 rs2 : Reg) (s : State) : Host.Outcome State Fault Refusal :=
  emit32 s (recordRdRs1Rs2 .xor rd rs1 rs2)

/-- `srl` (R258). -/
def execSrl (rd rs1 rs2 : Reg) (s : State) : Host.Outcome State Fault Refusal :=
  emit32 s (recordRdRs1Rs2 .srl rd rs1 rs2)

/-- `sra` (R259). -/
def execSra (rd rs1 rs2 : Reg) (s : State) : Host.Outcome State Fault Refusal :=
  emit32 s (recordRdRs1Rs2 .sra rd rs1 rs2)

/-- `or` (R260). -/
def execOr (rd rs1 rs2 : Reg) (s : State) : Host.Outcome State Fault Refusal :=
  emit32 s (recordRdRs1Rs2 .or rd rs1 rs2)

/-- `and` (R261). -/
def execAnd (rd rs1 rs2 : Reg) (s : State) : Host.Outcome State Fault Refusal :=
  emit32 s (recordRdRs1Rs2 .and rd rs1 rs2)

end Sys2Proof.Machine
end

