-- ==== Sys2Proof/Machine/Framed.lean ====
section
/-! DEFINITION. The meanings of spec 47_framed_only.md: the framed-only lengths.
The meaning of a framed instruction is an event with no decoded record and the advance of `ptr` by its length (rule
R440). -/

namespace Sys2Proof.Machine

/-- `framed__DoubleWord48` (R441). -/
def execFramedDoubleWord48 (_parcels : List Parcel) (s : State) : Host.Outcome State Fault Refusal :=
  emitFramed s .doubleWord48 3

/-- `framed__QuadWord64` (R442). -/
def execFramedQuadWord64 (_parcels : List Parcel) (s : State) : Host.Outcome State Fault Refusal :=
  emitFramed s .quadWord64 4

/-- `framed__Extended` (R443): `n = 5 + nnn` parcels with `nnn = p0[14:12]`; a list without a first parcel is not
well-formed and has no parcel to count. -/
def execFramedExtended (parcels : List Parcel) (s : State) : Host.Outcome State Fault Refusal :=
  match parcels with
  | [] => emitFramed s .extended 0
  | p0 :: _ => emitFramed s .extended (5 + (lengthField p0).toNat)

/-- `framed__Reserved192` (R444). -/
def execFramedReserved192 (_parcels : List Parcel) (s : State) : Host.Outcome State Fault Refusal :=
  emitFramed s .reserved192 12

end Sys2Proof.Machine
end

