-- ==== Sys2Proof/Machine/Quadrant0.lean ====
section
/-! DEFINITION. The meanings of spec 44_rvc_quadrant0.md: quadrant C0.
The block executes nothing (00_scope.md rule R6): the meaning of an instruction is the event it delivers and the advance
of `ptr` by its length (10_state.md rules R41 and R44). -/

namespace Sys2Proof.Machine

/-- `c.addi4spn` (R320). -/
def execCAddi4spn (rd : CReg) (imm : BitVec 10) (s : State) : Host.Outcome State Fault Refusal :=
  emit16 s (recordRdImm .cAddi4spn (creg rd) (zext32 imm))

/-- `c.fld` (R321). -/
def execCFld (rd rs1 : CReg) (imm : BitVec 8) (s : State) : Host.Outcome State Fault Refusal :=
  emit16 s (recordRdRs1Imm .cFld (creg rd) (creg rs1) (zext32 imm))

/-- `c.lw` (R322). -/
def execCLw (rd rs1 : CReg) (imm : BitVec 7) (s : State) : Host.Outcome State Fault Refusal :=
  emit16 s (recordRdRs1Imm .cLw (creg rd) (creg rs1) (zext32 imm))

/-- `c.flw` (R323). -/
def execCFlw (rd rs1 : CReg) (imm : BitVec 7) (s : State) : Host.Outcome State Fault Refusal :=
  emit16 s (recordRdRs1Imm .cFlw (creg rd) (creg rs1) (zext32 imm))

/-- `c.fsd` (R325). -/
def execCFsd (rs1 rs2 : CReg) (imm : BitVec 8) (s : State) : Host.Outcome State Fault Refusal :=
  emit16 s (recordRs1Rs2Imm .cFsd (creg rs1) (creg rs2) (zext32 imm))

/-- `c.sw` (R326). -/
def execCSw (rs1 rs2 : CReg) (imm : BitVec 7) (s : State) : Host.Outcome State Fault Refusal :=
  emit16 s (recordRs1Rs2Imm .cSw (creg rs1) (creg rs2) (zext32 imm))

/-- `c.fsw` (R327). -/
def execCFsw (rs1 rs2 : CReg) (imm : BitVec 7) (s : State) : Host.Outcome State Fault Refusal :=
  emit16 s (recordRs1Rs2Imm .cFsw (creg rs1) (creg rs2) (zext32 imm))

end Sys2Proof.Machine
end

