-- ==== Sys2Proof/Machine/Quadrant1.lean ====
section
/-! DEFINITION. The meanings of spec 45_rvc_quadrant1.md: quadrant C1.
The block executes nothing (00_scope.md rule R6): the meaning of an instruction is the event it delivers and the advance
of `ptr` by its length (10_state.md rules R41 and R44). -/

namespace Sys2Proof.Machine

/-- `c.addi` (R360). -/
def execCAddi (rd : Reg) (imm : BitVec 6) (s : State) : Host.Outcome State Fault Refusal :=
  emit16 s (recordRdImm .cAddi rd (sext32 imm))

/-- `c.jal` (R361). -/
def execCJal (imm : BitVec 12) (s : State) : Host.Outcome State Fault Refusal :=
  emit16 s (recordImm .cJal (sext32 imm))

/-- `c.li` (R362). -/
def execCLi (rd : Reg) (imm : BitVec 6) (s : State) : Host.Outcome State Fault Refusal :=
  emit16 s (recordRdImm .cLi rd (sext32 imm))

/-- `c.addi16sp` (R364): `rd` is always 2. -/
def execCAddi16sp (imm : BitVec 10) (s : State) : Host.Outcome State Fault Refusal :=
  emit16 s (recordRdImm .cAddi16sp 2#5 (sext32 imm))

/-- `c.lui` (R365). -/
def execCLui (rd : Reg) (imm : BitVec 18) (s : State) : Host.Outcome State Fault Refusal :=
  emit16 s (recordRdImm .cLui rd (sext32 imm))

/-- `c.andi` (R368). -/
def execCAndi (rd : CReg) (imm : BitVec 6) (s : State) : Host.Outcome State Fault Refusal :=
  emit16 s (recordRdImm .cAndi (creg rd) (sext32 imm))

/-- `c.sub` (R370). -/
def execCSub (rd rs2 : CReg) (s : State) : Host.Outcome State Fault Refusal :=
  emit16 s (recordRdRs2 .cSub (creg rd) (creg rs2))

/-- `c.xor` (R371). -/
def execCXor (rd rs2 : CReg) (s : State) : Host.Outcome State Fault Refusal :=
  emit16 s (recordRdRs2 .cXor (creg rd) (creg rs2))

/-- `c.or` (R372). -/
def execCOr (rd rs2 : CReg) (s : State) : Host.Outcome State Fault Refusal :=
  emit16 s (recordRdRs2 .cOr (creg rd) (creg rs2))

/-- `c.and` (R373). -/
def execCAnd (rd rs2 : CReg) (s : State) : Host.Outcome State Fault Refusal :=
  emit16 s (recordRdRs2 .cAnd (creg rd) (creg rs2))

/-- `c.j` (R374). -/
def execCJ (imm : BitVec 12) (s : State) : Host.Outcome State Fault Refusal :=
  emit16 s (recordImm .cJ (sext32 imm))

/-- `c.beqz` (R375). -/
def execCBeqz (rs1 : CReg) (imm : BitVec 9) (s : State) : Host.Outcome State Fault Refusal :=
  emit16 s (recordRs1Imm .cBeqz (creg rs1) (sext32 imm))

/-- `c.bnez` (R376). -/
def execCBnez (rs1 : CReg) (imm : BitVec 9) (s : State) : Host.Outcome State Fault Refusal :=
  emit16 s (recordRs1Imm .cBnez (creg rs1) (sext32 imm))

end Sys2Proof.Machine
end

