-- ==== Sys2Proof/Machine/Quadrant2.lean ====
section
/-! DEFINITION. The meanings of spec 46_rvc_quadrant2.md: quadrant C2.
The block executes nothing (00_scope.md rule R6): the meaning of an instruction is the event it delivers and the advance
of `ptr` by its length (10_state.md rules R41 and R44). -/

namespace Sys2Proof.Machine

/-- `c.slli` (R400). -/
def execCSlli (rd : Reg) (shamt : BitVec 6) (s : State) : Host.Outcome State Fault Refusal :=
  emit16 s (recordRdImm .cSlli rd (zext32 shamt))

/-- `c.slli64` (R401). -/
def execCSlli64 (rd : Reg) (s : State) : Host.Outcome State Fault Refusal :=
  emit16 s (recordRd .cSlli64 rd)

/-- `c.fldsp` (R402). -/
def execCFldsp (rd : Reg) (imm : BitVec 9) (s : State) : Host.Outcome State Fault Refusal :=
  emit16 s (recordRdImm .cFldsp rd (zext32 imm))

/-- `c.lwsp` (R403). -/
def execCLwsp (rd : Reg) (imm : BitVec 8) (s : State) : Host.Outcome State Fault Refusal :=
  emit16 s (recordRdImm .cLwsp rd (zext32 imm))

/-- `c.flwsp` (R404). -/
def execCFlwsp (rd : Reg) (imm : BitVec 8) (s : State) : Host.Outcome State Fault Refusal :=
  emit16 s (recordRdImm .cFlwsp rd (zext32 imm))

/-- `c.jr` (R406). -/
def execCJr (rs1 : Reg) (s : State) : Host.Outcome State Fault Refusal :=
  emit16 s (recordRs1 .cJr rs1)

/-- `c.mv` (R407). -/
def execCMv (rd rs2 : Reg) (s : State) : Host.Outcome State Fault Refusal :=
  emit16 s (recordRdRs2 .cMv rd rs2)

/-- `c.ebreak` (R408): no breakpoint is taken. -/
def execCEbreak (s : State) : Host.Outcome State Fault Refusal :=
  emit16 s (recordNone .cEbreak)

/-- `c.jalr` (R409). -/
def execCJalr (rs1 : Reg) (s : State) : Host.Outcome State Fault Refusal :=
  emit16 s (recordRs1 .cJalr rs1)

/-- `c.add` (R410). -/
def execCAdd (rd rs2 : Reg) (s : State) : Host.Outcome State Fault Refusal :=
  emit16 s (recordRdRs2 .cAdd rd rs2)

/-- `c.fsdsp` (R411). -/
def execCFsdsp (rs2 : Reg) (imm : BitVec 9) (s : State) : Host.Outcome State Fault Refusal :=
  emit16 s (recordRs2Imm .cFsdsp rs2 (zext32 imm))

/-- `c.swsp` (R412). -/
def execCSwsp (rs2 : Reg) (imm : BitVec 8) (s : State) : Host.Outcome State Fault Refusal :=
  emit16 s (recordRs2Imm .cSwsp rs2 (zext32 imm))

/-- `c.fswsp` (R413). -/
def execCFswsp (rs2 : Reg) (imm : BitVec 8) (s : State) : Host.Outcome State Fault Refusal :=
  emit16 s (recordRs2Imm .cFswsp rs2 (zext32 imm))

end Sys2Proof.Machine
end

