-- ==== Sys2Proof/Machine/Flags.lean ====
section
/-! DEFINITION. The block has no flag and no condition code (spec 10_state.md rule R26): no instruction computes or
writes one. The only flags it handles are the output value of `fence`: the fence flag vector (43_rv32_system_fence.md
rules R296 and R297). -/

namespace Sys2Proof.Machine

/-- The letters of the fence flag vector, in the order of its bits 0 to 7 (R297). -/
inductive FenceLetter where
  | sw | sr | so | si | pw | pr | po | pi
  deriving DecidableEq, Repr

/-- The bit of the vector that carries a letter (R297). -/
def fenceBit : FenceLetter → Nat
  | .sw => 0
  | .sr => 1
  | .so => 2
  | .si => 3
  | .pw => 4
  | .pr => 5
  | .po => 6
  | .pi => 7

/-- Whether a letter's flag is set in a vector. -/
def fenceHas (flags : BitVec 8) (l : FenceLetter) : Bool := flags.getLsbD (fenceBit l)

/-- The instruction bit that carries a letter: `fence[k] = i[20 + k]` (R297). -/
def fenceInstructionBit (l : FenceLetter) : Nat := 20 + fenceBit l

/-- The letters set in a vector, in the order of the source's list (R297). -/
def fenceLetters (flags : BitVec 8) : List FenceLetter :=
  [.sw, .sr, .so, .si, .pw, .pr, .po, .pi].filter (fenceHas flags)

/-- The predecessor and successor sets of R113: `pred = i[27:24]`, `succ = i[23:20]`. -/
def fencePred (flags : BitVec 8) : BitVec 4 := flags.extractLsb' 4 4
def fenceSucc (flags : BitVec 8) : BitVec 4 := flags.extractLsb' 0 4

end Sys2Proof.Machine
end

