-- ==== Sys2Proof/Machine/System.lean ====
section
/-! DEFINITION. The meanings of spec 43_rv32_system_fence.md: CSR, PRIV, FENCE and FENCE.I.
The block executes nothing (00_scope.md rule R6): the meaning of an instruction is the event it delivers and the advance
of `ptr` by its length (10_state.md rules R41 and R44). -/

namespace Sys2Proof.Machine

/-- `csrrw` (R289): no CSR is accessed (R288). -/
def execCsrrw (rd rs1 : Reg) (csr : BitVec 12) (s : State) : Host.Outcome State Fault Refusal :=
  emit32 s (recordRdRs1Imm .csrrw rd rs1 (zext32 csr))

/-- `csrrs` (R290): no CSR is accessed (R288). -/
def execCsrrs (rd rs1 : Reg) (csr : BitVec 12) (s : State) : Host.Outcome State Fault Refusal :=
  emit32 s (recordRdRs1Imm .csrrs rd rs1 (zext32 csr))

/-- `csrrc` (R291): no CSR is accessed (R288). -/
def execCsrrc (rd rs1 : Reg) (csr : BitVec 12) (s : State) : Host.Outcome State Fault Refusal :=
  emit32 s (recordRdRs1Imm .csrrc rd rs1 (zext32 csr))

/-- `csrrwi` (R292): `rs1` is the 5-bit unsigned immediate (R288); no CSR is accessed. -/
def execCsrrwi (rd rs1 : Reg) (csr : BitVec 12) (s : State) : Host.Outcome State Fault Refusal :=
  emit32 s (recordRdRs1Imm .csrrwi rd rs1 (zext32 csr))

/-- `csrrsi` (R293): `rs1` is the 5-bit unsigned immediate (R288); no CSR is accessed. -/
def execCsrrsi (rd rs1 : Reg) (csr : BitVec 12) (s : State) : Host.Outcome State Fault Refusal :=
  emit32 s (recordRdRs1Imm .csrrsi rd rs1 (zext32 csr))

/-- `csrrci` (R294): `rs1` is the 5-bit unsigned immediate (R288); no CSR is accessed. -/
def execCsrrci (rd rs1 : Reg) (csr : BitVec 12) (s : State) : Host.Outcome State Fault Refusal :=
  emit32 s (recordRdRs1Imm .csrrci rd rs1 (zext32 csr))

/-- `ecall` (R282): no trap is raised. -/
def execEcall (s : State) : Host.Outcome State Fault Refusal :=
  emit32 s (recordNone .ecall)

/-- `ebreak` (R283): no breakpoint is taken. -/
def execEbreak (s : State) : Host.Outcome State Fault Refusal :=
  emit32 s (recordNone .ebreak)

/-- `uret` (R284): it returns from nothing (R511). -/
def execUret (s : State) : Host.Outcome State Fault Refusal :=
  emit32 s (recordNone .uret)

/-- `sret` (R285): it returns from nothing (R511). -/
def execSret (s : State) : Host.Outcome State Fault Refusal :=
  emit32 s (recordNone .sret)

/-- `mret` (R286): it returns from nothing (R511). -/
def execMret (s : State) : Host.Outcome State Fault Refusal :=
  emit32 s (recordNone .mret)

/-- `wfi` (R287): the block does not wait. -/
def execWfi (s : State) : Host.Outcome State Fault Refusal :=
  emit32 s (recordNone .wfi)

/-- `fence` (R296): the block orders nothing (R71). -/
def execFence (flags : BitVec 8) (s : State) : Host.Outcome State Fault Refusal :=
  emit32 s (recordFence .fence flags)

/-- `fence.i` (R298): the block synchronises nothing (R72). -/
def execFenceI (s : State) : Host.Outcome State Fault Refusal :=
  emit32 s (recordNone .fenceI)

end Sys2Proof.Machine
end

