-- ==== Sys2Proof/Machine/Upper.lean ====
section
/-! DEFINITION. The meanings of spec 41_rv32_upper_jump_load_store_branch.md: LUI, AUIPC, JAL, JALR, LOAD, STORE and
BRANCH. The block executes nothing (00_scope.md rule R6): the meaning of an instruction is the event it delivers and the
advance of `ptr` by its length (10_state.md rules R41 and R44). -/

namespace Sys2Proof.Machine

/-- `lui` (R200). -/
def execLui (rd : Reg) (imm : BitVec 32) (s : State) : Host.Outcome State Fault Refusal :=
  emit32 s (recordRdImm .lui rd imm)

/-- `auipc` (R201). -/
def execAuipc (rd : Reg) (imm : BitVec 32) (s : State) : Host.Outcome State Fault Refusal :=
  emit32 s (recordRdImm .auipc rd imm)

/-- `jal` (R202). -/
def execJal (rd : Reg) (imm : BitVec 21) (s : State) : Host.Outcome State Fault Refusal :=
  emit32 s (recordRdImm .jal rd (sext32 imm))

/-- `jalr` (R203). -/
def execJalr (rd rs1 : Reg) (imm : BitVec 12) (s : State) : Host.Outcome State Fault Refusal :=
  emit32 s (recordRdRs1Imm .jalr rd rs1 (sext32 imm))

/-- `lb` (R205). -/
def execLb (rd rs1 : Reg) (imm : BitVec 12) (s : State) : Host.Outcome State Fault Refusal :=
  emit32 s (recordRdRs1Imm .lb rd rs1 (sext32 imm))

/-- `lh` (R206). -/
def execLh (rd rs1 : Reg) (imm : BitVec 12) (s : State) : Host.Outcome State Fault Refusal :=
  emit32 s (recordRdRs1Imm .lh rd rs1 (sext32 imm))

/-- `lw` (R207). -/
def execLw (rd rs1 : Reg) (imm : BitVec 12) (s : State) : Host.Outcome State Fault Refusal :=
  emit32 s (recordRdRs1Imm .lw rd rs1 (sext32 imm))

/-- `lbu` (R208). -/
def execLbu (rd rs1 : Reg) (imm : BitVec 12) (s : State) : Host.Outcome State Fault Refusal :=
  emit32 s (recordRdRs1Imm .lbu rd rs1 (sext32 imm))

/-- `lhu` (R209). -/
def execLhu (rd rs1 : Reg) (imm : BitVec 12) (s : State) : Host.Outcome State Fault Refusal :=
  emit32 s (recordRdRs1Imm .lhu rd rs1 (sext32 imm))

/-- `sb` (R211). -/
def execSb (rs1 rs2 : Reg) (imm : BitVec 12) (s : State) : Host.Outcome State Fault Refusal :=
  emit32 s (recordRs1Rs2Imm .sb rs1 rs2 (sext32 imm))

/-- `sh` (R212). -/
def execSh (rs1 rs2 : Reg) (imm : BitVec 12) (s : State) : Host.Outcome State Fault Refusal :=
  emit32 s (recordRs1Rs2Imm .sh rs1 rs2 (sext32 imm))

/-- `sw` (R213). -/
def execSw (rs1 rs2 : Reg) (imm : BitVec 12) (s : State) : Host.Outcome State Fault Refusal :=
  emit32 s (recordRs1Rs2Imm .sw rs1 rs2 (sext32 imm))

/-- `beq` (R215). -/
def execBeq (rs1 rs2 : Reg) (imm : BitVec 13) (s : State) : Host.Outcome State Fault Refusal :=
  emit32 s (recordRs1Rs2Imm .beq rs1 rs2 (sext32 imm))

/-- `bne` (R216). -/
def execBne (rs1 rs2 : Reg) (imm : BitVec 13) (s : State) : Host.Outcome State Fault Refusal :=
  emit32 s (recordRs1Rs2Imm .bne rs1 rs2 (sext32 imm))

/-- `blt` (R217). -/
def execBlt (rs1 rs2 : Reg) (imm : BitVec 13) (s : State) : Host.Outcome State Fault Refusal :=
  emit32 s (recordRs1Rs2Imm .blt rs1 rs2 (sext32 imm))

/-- `bge` (R218). -/
def execBge (rs1 rs2 : Reg) (imm : BitVec 13) (s : State) : Host.Outcome State Fault Refusal :=
  emit32 s (recordRs1Rs2Imm .bge rs1 rs2 (sext32 imm))

/-- `bltu` (R219). -/
def execBltu (rs1 rs2 : Reg) (imm : BitVec 13) (s : State) : Host.Outcome State Fault Refusal :=
  emit32 s (recordRs1Rs2Imm .bltu rs1 rs2 (sext32 imm))

/-- `bgeu` (R220). -/
def execBgeu (rs1 rs2 : Reg) (imm : BitVec 13) (s : State) : Host.Outcome State Fault Refusal :=
  emit32 s (recordRs1Rs2Imm .bgeu rs1 rs2 (sext32 imm))

end Sys2Proof.Machine
end

