-- ==== Sys2Proof/Machine/Step.lean ====
section
/-! DEFINITION. The decode step (spec 10_state.md rules R40 to R46): reads, then decode, then the instruction's
meaning. -/

namespace Sys2Proof.Machine

/-- What follows a complete fetch (R41, R43, R507): the decoder's instruction runs, or the pass is aborted. -/
def runDecoded (s : State) : DecodeResult → Host.Outcome State Fault Refusal
  | .instr i => exec i s
  | .rejected e => .next (s.reject e)

/-- `Step()` (R41), enabled exactly while `status = Running` (R40). -/
def step (s : State) : Host.Outcome State Fault Refusal :=
  match s.status with
  | .done p => .fault (.passDone p)
  | .aborted e => .fault (.passAborted e)
  | .running =>
    match fetch s with
    | .unanswered a => .fault (.readUnanswered a)
    | .endOfStream t => .next t.finish
    | .failed kind t => .next (t.abort kind none)
    | .complete t => runDecoded t (decode t.buffer)

/-- `s` with the table word `w` of `nbits` bits where the next step fetches (assumption 4). -/
def State.withFetchWord (s : State) (nbits w : Nat) : State := s.placeWord nbits w

end Sys2Proof.Machine
end

