-- ==== Sys2Proof/Safety.lean ====
section
/-! DEFINITION. What the claims are stated in: the states a step leads to, written out field by field, the premises
about the parcels the byte source presents, and the invariant of a pass (spec 10_state.md, 20_memory.md and
60_exceptions.md). A safe step ends a step's reads and decoding in one of the states below, and nothing else. -/

namespace Sys2Proof.Safety

open Sys2Proof.Machine

/-! ### States after a step -/

/-- `s` after the event of an instruction of category `cat` and `len` bytes whose parcels are in the buffer: the event
of R30 is appended, `ptr` is past the instruction (R44), the buffer is empty (R23); every other field is as in `s`. -/
def afterEvent (s : State) (cat : Category) (len : Nat) (d : Option Decoded) : State :=
  { s with
    ptr := s.ptr + len
    buffer := []
    events := s.events ++
      [{ offset := reportOffset s.params.ptrWidth s.ptr, category := cat, length := len, parcels := s.buffer,
         raw := rawOf s.buffer, decoded := d }] }

/-- The records of reads at `a, a + 2, …` that were answered with the parcels `ps`. -/
def readRecords (a : Nat) : List Parcel → List ReadRecord
  | [] => []
  | p :: ps => { offset := a, answer := .ok p } :: readRecords (a + 2) ps

/-- `s` after its step's first reads, one after the other from `ptr`, were answered with the parcels `ps` (R41). -/
def afterReads (s : State) (ps : List Parcel) : State :=
  { s with
    buffer := ps
    reads := s.reads ++ readRecords s.ptr ps
    source := match ps with
      | [] => s.source
      | _ :: _ => { s.source with cursor := s.ptr + 2 * ps.length } }

/-- The error record of a step that began at `s` and had read the parcels `ps` (R503). -/
def errorOf (s : State) (kind : ErrorKind) (ps : List Parcel) (tuple : Option DiagTuple) : ErrorRecord :=
  { kind := kind, offset := reportOffset s.params.ptrWidth s.ptr, parcels := ps, tuple := tuple }

/-- `s` after an abort (R510): the parcels `ps` were read, then came the failing read `failing`, if the error was one
of a read. `ptr` and the events are those of `s` (R508). -/
def afterAbort (s : State) (kind : ErrorKind) (ps : List Parcel) (failing : List ReadRecord)
    (tuple : Option DiagTuple) : State :=
  { afterReads s ps with
    buffer := []
    reads := s.reads ++ readRecords s.ptr ps ++ failing
    status := .aborted (errorOf s kind ps tuple)
    outcome := some (.error (errorOf s kind ps tuple)) }

/-- `s` after the clean end of its pass (R42): the one read of the step found no byte left. -/
def afterEnd (s : State) : State :=
  { s with
    buffer := []
    reads := s.reads ++ [{ offset := s.ptr, answer := .eof 0 }]
    status := .done s.ptr
    outcome := some (.done s.ptr) }

/-! ### Premises -/

/-- The reads at `a, a + 2, …` are answered with the parcels `ps`. -/
def Answers (s : State) (a : Nat) : List Parcel → Prop
  | [] => True
  | p :: ps => s.answerAt a = some (.ok p) ∧ Answers s (a + 2) ps

/-- The step's reads are answered with parcels `ps` that make one whole instruction (R41). -/
structure Presents (s : State) (ps : List Parcel) : Prop where
  running : s.status = .running
  answers : Answers s s.ptr ps
  whole : ∃ p0 rest, ps = p0 :: rest ∧ ps.length = (classify p0).2

/-- The step's first reads are answered with the parcels `ps`, and the instruction they begin is not whole: with no
parcel nothing is known of it, else its class needs more (R502). -/
structure Begins (s : State) (ps : List Parcel) : Prop where
  running : s.status = .running
  answers : Answers s s.ptr ps
  partly : ∀ p0 rest, ps = p0 :: rest → ps.length < (classify p0).2

/-- The byte source answers every read (R80). -/
def AnswersAll (s : State) : Prop := s.source.silentFrom = none

/-! ### What a word stands for -/

/-- The 32-bit resolver gives `i` for the word `w`, the decoder that the step calls gives it for the word's two parcels
(R43), and in every state `i` executes to the event of `Word32`, four bytes, with the record `d`; nothing but the events,
`ptr` and the buffer changes. -/
def Delivers32 (w : Word) (i : Instr) (d : Decoded) : Prop :=
  decode32 w = some i ∧ decode (halves w) = .instr i ∧
    ∀ s : State, exec i s = .next (afterEvent s .word32 4 (some d))

/-- The same for the 16-bit parcel `c`: `Compressed16`, two bytes. -/
def Delivers16 (c : Parcel) (i : Instr) (d : Decoded) : Prop :=
  decode16 c = some i ∧ decode [c] = .instr i ∧
    ∀ s : State, exec i s = .next (afterEvent s .compressed16 2 (some d))

/-- The instruction `w` is malformed with the tuple of R504. -/
def Malformed32 (w : Word) : Prop :=
  decode [w.extractLsb' 0 16, w.extractLsb' 16 16] =
    .rejected (.malformed (.word32 (w.extractLsb' 0 7) (w.extractLsb' 12 3) (w.extractLsb' 25 7)))

def Malformed16 (c : Parcel) : Prop :=
  decode [c] = .rejected (.malformed (.compressed16 (c.extractLsb' 0 2) (c.extractLsb' 13 3)))

/-- The record that an instruction's event carries: that of its execution in a state with nothing delivered. -/
def recordOf (i : Instr) : Option Decoded :=
  match exec i State.reset with
  | .next t =>
    match t.events with
    | e :: _ => e.decoded
    | [] => none
  | .fault _ => none
  | .refused _ => none

/-! ### The invariant of a pass -/

/-- A record presents exactly the fields of its mnemonic's operand form (R31, R33). -/
def MatchesForm (d : Decoded) : Prop :=
  let fields := (formOf d.mnemonic).fields
  (d.rd.isSome = true ↔ OperandField.rd ∈ fields) ∧ (d.rs1.isSome = true ↔ OperandField.rs1 ∈ fields) ∧
  (d.rs2.isSome = true ↔ OperandField.rs2 ∈ fields) ∧ (d.imm.isSome = true ↔ OperandField.imm ∈ fields) ∧
  (d.fence.isSome = true ↔ OperandField.fence ∈ fields)

/-- An event record is consistent (R29 to R31): its first parcel's class is its category and number of parcels, `length`
is in bytes, `raw` is the parcels', and a decoded record is present for exactly the two decodable categories, with
exactly the fields of its mnemonic's form. -/
structure EventOk (e : Event) : Prop where
  classified : ∃ p0 rest, e.parcels = p0 :: rest ∧ classify p0 = (e.category, e.parcels.length)
  length : e.length = 2 * e.parcels.length
  raw : e.raw = rawOf e.parcels
  decoded : e.decoded.isSome = true ↔ e.category.code ≤ 1
  form : ∀ d, e.decoded = some d → MatchesForm d

/-- The events' offsets follow one another from `a` to `p`, each the reported sum of the lengths before it (R44). -/
def EventsChain (w : PtrWidth) : Nat → List Event → Nat → Prop
  | a, [], p => a = p
  | a, e :: es, p => e.offset = reportOffset w a ∧ EventsChain w (a + e.length) es p

/-- The reads follow one another from `a` to the cursor `c`, two bytes apart; one that was not answered with a parcel is
the last (R68, R70). -/
def ReadsChain : Nat → List ReadRecord → Nat → Prop
  | a, [], c => a = c
  | a, r :: rs, c =>
    r.offset = a ∧
      match r.answer with
      | .ok _ => ReadsChain (a + 2) rs c
      | .eof _ => rs = [] ∧ a = c
      | .ioError => rs = [] ∧ a = c

/-- The parcels the reads were answered with, in order. -/
def parcelsRead : List ReadRecord → List Parcel
  | [] => []
  | r :: rs =>
    match r.answer with
    | .ok p => p :: parcelsRead rs
    | .eof _ => parcelsRead rs
    | .ioError => parcelsRead rs

/-- The parcels an error record carries; none while the pass goes on or after its clean end. -/
def abortedParcels : Status → List Parcel
  | .running => []
  | .done _ => []
  | .aborted e => e.parcels

/-- What the status says of the outcome port and of `ptr` (R42, R503, R510). -/
def StatusOk (s : State) : Prop :=
  match s.status with
  | .running => s.outcome = none ∧ s.source.cursor = s.ptr ∧ ∀ r ∈ s.reads, ∃ p, r.answer = .ok p
  | .done p => s.outcome = some (.done p) ∧ p = s.ptr ∧ p = s.source.bytes.length
  | .aborted e => s.outcome = some (.error e) ∧ e.offset = reportOffset s.params.ptrWidth s.ptr

/-- The invariant of a pass. `conserved` says that no parcel is dropped or made up: what the reads delivered is what the
events carry, in order, followed by what the error record carries (R500: "none are silently recovered or skipped"). -/
structure Inv (s : State) : Prop where
  canonical : Memory.wf s.source.bytes = true
  even : s.ptr % 2 = 0
  inStream : s.ptr ≤ s.source.bytes.length
  bufferEmpty : s.buffer = []
  eventsChain : EventsChain s.params.ptrWidth 0 s.events s.ptr
  eventsOk : ∀ e ∈ s.events, EventOk e
  readsChain : ReadsChain 0 s.reads s.source.cursor
  conserved : parcelsRead s.reads = s.events.flatMap (fun e => e.parcels) ++ abortedParcels s.status
  status : StatusOk s

end Sys2Proof.Safety
end

