-- ==== Sys2Proof/Certificates/Slice0/Obligations.lean ====
section
/-! DEFINITION. The statements for the provers. The first part says, for each family of the opcode table, which words
decode to which instruction and that each instruction executes to the event the spec gives it (`Delivers32`,
`Delivers16`), with the operands written from the word's bits. The second part says what a step does around the
instruction; the third is about the encoding, the byte source and the immediates as a whole. Nothing here rests on a
value the model chose at reset. -/

open Sys2Proof Sys2Proof.Machine Sys2Proof.Safety

/-! ### Part 1: the families -/

/-- R200, R201: LUI and AUIPC. -/
def Obligations.LuiAndAuipcDeliverRdAndUpperImmediate : Prop :=
  ∀ w : Word,
    let rd : Reg := w.extractLsb' 7 5
    let imm : Word := cat 32 (w.extractLsb' 12 20) 0#12
    (w.extractLsb' 0 7 = 0b0110111#7 →
      Delivers32 w (.lui rd imm) { mnemonic := .lui, rd := some rd, imm := some imm }) ∧
    (w.extractLsb' 0 7 = 0b0010111#7 →
      Delivers32 w (.auipc rd imm) { mnemonic := .auipc, rd := some rd, imm := some imm })

/-- R202, R137: JAL, with the scattered, sign-extended offset. -/
def Obligations.JalDeliversRdAndJumpOffset : Prop :=
  ∀ w : Word, w.extractLsb' 0 7 = 0b1101111#7 →
    let rd : Reg := w.extractLsb' 7 5
    let imm : BitVec 21 := cat 21 (w.extractLsb' 31 1) (cat 20 (w.extractLsb' 12 8) (cat 12 (w.extractLsb' 20 1)
      (cat 11 (w.extractLsb' 21 10) 0#1)))
    Delivers32 w (.jal rd imm) { mnemonic := .jal, rd := some rd, imm := some (imm.signExtend 32) }

/-- R203, R204: JALR with `funct3 = 0`; any other `funct3` is malformed. -/
def Obligations.JalrDeliversOrIsMalformed : Prop :=
  ∀ w : Word, w.extractLsb' 0 7 = 0b1100111#7 →
    let rd : Reg := w.extractLsb' 7 5
    let rs1 : Reg := w.extractLsb' 15 5
    let imm : BitVec 12 := w.extractLsb' 20 12
    (w.extractLsb' 12 3 = 0b000#3 →
      Delivers32 w (.jalr rd rs1 imm)
        { mnemonic := .jalr, rd := some rd, rs1 := some rs1, imm := some (imm.signExtend 32) }) ∧
    (w.extractLsb' 12 3 ≠ 0b000#3 → Malformed32 w)

/-- R205 to R210, R222: the loads. -/
def Obligations.LoadsDeliverOrAreMalformed : Prop :=
  ∀ w : Word, w.extractLsb' 0 7 = 0b0000011#7 →
    let rd : Reg := w.extractLsb' 7 5
    let rs1 : Reg := w.extractLsb' 15 5
    let imm : BitVec 12 := w.extractLsb' 20 12
    let d (m : Mnemonic) : Decoded :=
      { mnemonic := m, rd := some rd, rs1 := some rs1, imm := some (imm.signExtend 32) }
    (w.extractLsb' 12 3 = 0b000#3 → Delivers32 w (.lb rd rs1 imm) (d .lb)) ∧
    (w.extractLsb' 12 3 = 0b001#3 → Delivers32 w (.lh rd rs1 imm) (d .lh)) ∧
    (w.extractLsb' 12 3 = 0b010#3 → Delivers32 w (.lw rd rs1 imm) (d .lw)) ∧
    (w.extractLsb' 12 3 = 0b100#3 → Delivers32 w (.lbu rd rs1 imm) (d .lbu)) ∧
    (w.extractLsb' 12 3 = 0b101#3 → Delivers32 w (.lhu rd rs1 imm) (d .lhu)) ∧
    (w.extractLsb' 12 3 ∈ [0b011#3, 0b110#3, 0b111#3] → Malformed32 w)

/-- R211 to R214, R223: the stores. -/
def Obligations.StoresDeliverOrAreMalformed : Prop :=
  ∀ w : Word, w.extractLsb' 0 7 = 0b0100011#7 →
    let rs1 : Reg := w.extractLsb' 15 5
    let rs2 : Reg := w.extractLsb' 20 5
    let imm : BitVec 12 := cat 12 (w.extractLsb' 25 7) (w.extractLsb' 7 5)
    let d (m : Mnemonic) : Decoded :=
      { mnemonic := m, rs1 := some rs1, rs2 := some rs2, imm := some (imm.signExtend 32) }
    (w.extractLsb' 12 3 = 0b000#3 → Delivers32 w (.sb rs1 rs2 imm) (d .sb)) ∧
    (w.extractLsb' 12 3 = 0b001#3 → Delivers32 w (.sh rs1 rs2 imm) (d .sh)) ∧
    (w.extractLsb' 12 3 = 0b010#3 → Delivers32 w (.sw rs1 rs2 imm) (d .sw)) ∧
    (w.extractLsb' 12 3 ∈ [0b011#3, 0b100#3, 0b101#3, 0b110#3, 0b111#3] → Malformed32 w)

/-- R215 to R221, R224: the branches. -/
def Obligations.BranchesDeliverOrAreMalformed : Prop :=
  ∀ w : Word, w.extractLsb' 0 7 = 0b1100011#7 →
    let rs1 : Reg := w.extractLsb' 15 5
    let rs2 : Reg := w.extractLsb' 20 5
    let imm : BitVec 13 := cat 13 (w.extractLsb' 31 1) (cat 12 (w.extractLsb' 7 1) (cat 11 (w.extractLsb' 25 6)
      (cat 5 (w.extractLsb' 8 4) 0#1)))
    let d (m : Mnemonic) : Decoded :=
      { mnemonic := m, rs1 := some rs1, rs2 := some rs2, imm := some (imm.signExtend 32) }
    (w.extractLsb' 12 3 = 0b000#3 → Delivers32 w (.beq rs1 rs2 imm) (d .beq)) ∧
    (w.extractLsb' 12 3 = 0b001#3 → Delivers32 w (.bne rs1 rs2 imm) (d .bne)) ∧
    (w.extractLsb' 12 3 = 0b100#3 → Delivers32 w (.blt rs1 rs2 imm) (d .blt)) ∧
    (w.extractLsb' 12 3 = 0b101#3 → Delivers32 w (.bge rs1 rs2 imm) (d .bge)) ∧
    (w.extractLsb' 12 3 = 0b110#3 → Delivers32 w (.bltu rs1 rs2 imm) (d .bltu)) ∧
    (w.extractLsb' 12 3 = 0b111#3 → Delivers32 w (.bgeu rs1 rs2 imm) (d .bgeu)) ∧
    (w.extractLsb' 12 3 ∈ [0b010#3, 0b011#3] → Malformed32 w)

/-- R240 to R250: OP-IMM. The six non-shift mnemonics test `funct3` alone; the three shifts test `funct7` too. -/
def Obligations.OpImmDeliversOrIsMalformed : Prop :=
  ∀ w : Word, w.extractLsb' 0 7 = 0b0010011#7 →
    let rd : Reg := w.extractLsb' 7 5
    let rs1 : Reg := w.extractLsb' 15 5
    let imm : BitVec 12 := w.extractLsb' 20 12
    let shamt : BitVec 5 := w.extractLsb' 20 5
    let funct7 : BitVec 7 := w.extractLsb' 25 7
    let d (m : Mnemonic) : Decoded :=
      { mnemonic := m, rd := some rd, rs1 := some rs1, imm := some (imm.signExtend 32) }
    let sh (m : Mnemonic) : Decoded :=
      { mnemonic := m, rd := some rd, rs1 := some rs1, imm := some (shamt.setWidth 32) }
    (w.extractLsb' 12 3 = 0b000#3 → Delivers32 w (.addi rd rs1 imm) (d .addi)) ∧
    (w.extractLsb' 12 3 = 0b010#3 → Delivers32 w (.slti rd rs1 imm) (d .slti)) ∧
    (w.extractLsb' 12 3 = 0b011#3 → Delivers32 w (.sltiu rd rs1 imm) (d .sltiu)) ∧
    (w.extractLsb' 12 3 = 0b100#3 → Delivers32 w (.xori rd rs1 imm) (d .xori)) ∧
    (w.extractLsb' 12 3 = 0b110#3 → Delivers32 w (.ori rd rs1 imm) (d .ori)) ∧
    (w.extractLsb' 12 3 = 0b111#3 → Delivers32 w (.andi rd rs1 imm) (d .andi)) ∧
    (w.extractLsb' 12 3 = 0b001#3 → funct7 = 0b0000000#7 → Delivers32 w (.slli rd rs1 shamt) (sh .slli)) ∧
    (w.extractLsb' 12 3 = 0b101#3 → funct7 = 0b0000000#7 → Delivers32 w (.srli rd rs1 shamt) (sh .srli)) ∧
    (w.extractLsb' 12 3 = 0b101#3 → funct7 = 0b0100000#7 → Delivers32 w (.srai rd rs1 shamt) (sh .srai)) ∧
    (w.extractLsb' 12 3 = 0b001#3 → funct7 ≠ 0b0000000#7 → Malformed32 w) ∧
    (w.extractLsb' 12 3 = 0b101#3 → funct7 ≠ 0b0000000#7 → funct7 ≠ 0b0100000#7 → Malformed32 w)

/-- R251 to R262: OP. The mnemonic is selected by the pair (`funct3`, `funct7`); every other pair is malformed. -/
def Obligations.OpDeliversOrIsMalformed : Prop :=
  ∀ w : Word, w.extractLsb' 0 7 = 0b0110011#7 →
    let rd : Reg := w.extractLsb' 7 5
    let rs1 : Reg := w.extractLsb' 15 5
    let rs2 : Reg := w.extractLsb' 20 5
    let pair : BitVec 3 × BitVec 7 := (w.extractLsb' 12 3, w.extractLsb' 25 7)
    let d (m : Mnemonic) : Decoded := { mnemonic := m, rd := some rd, rs1 := some rs1, rs2 := some rs2 }
    (pair = (0b000#3, 0b0000000#7) → Delivers32 w (.add rd rs1 rs2) (d .add)) ∧
    (pair = (0b000#3, 0b0100000#7) → Delivers32 w (.sub rd rs1 rs2) (d .sub)) ∧
    (pair = (0b001#3, 0b0000000#7) → Delivers32 w (.sll rd rs1 rs2) (d .sll)) ∧
    (pair = (0b010#3, 0b0000000#7) → Delivers32 w (.slt rd rs1 rs2) (d .slt)) ∧
    (pair = (0b011#3, 0b0000000#7) → Delivers32 w (.sltu rd rs1 rs2) (d .sltu)) ∧
    (pair = (0b100#3, 0b0000000#7) → Delivers32 w (.xor rd rs1 rs2) (d .xor)) ∧
    (pair = (0b101#3, 0b0000000#7) → Delivers32 w (.srl rd rs1 rs2) (d .srl)) ∧
    (pair = (0b101#3, 0b0100000#7) → Delivers32 w (.sra rd rs1 rs2) (d .sra)) ∧
    (pair = (0b110#3, 0b0000000#7) → Delivers32 w (.or rd rs1 rs2) (d .or)) ∧
    (pair = (0b111#3, 0b0000000#7) → Delivers32 w (.and rd rs1 rs2) (d .and)) ∧
    (pair ∉ [(0b000#3, 0b0000000#7), (0b000#3, 0b0100000#7), (0b001#3, 0b0000000#7), (0b010#3, 0b0000000#7),
        (0b011#3, 0b0000000#7), (0b100#3, 0b0000000#7), (0b101#3, 0b0000000#7), (0b101#3, 0b0100000#7),
        (0b110#3, 0b0000000#7), (0b111#3, 0b0000000#7)] → Malformed32 w)

/-- R288 to R294: the CSR instructions. The CSR number is zero-extended, and every number decodes. -/
def Obligations.CsrInstructionsDeliverCsrNumber : Prop :=
  ∀ w : Word, w.extractLsb' 0 7 = 0b1110011#7 →
    let rd : Reg := w.extractLsb' 7 5
    let rs1 : Reg := w.extractLsb' 15 5
    let csr : BitVec 12 := w.extractLsb' 20 12
    let d (m : Mnemonic) : Decoded := { mnemonic := m, rd := some rd, rs1 := some rs1, imm := some (csr.setWidth 32) }
    (w.extractLsb' 12 3 = 0b001#3 → Delivers32 w (.csrrw rd rs1 csr) (d .csrrw)) ∧
    (w.extractLsb' 12 3 = 0b010#3 → Delivers32 w (.csrrs rd rs1 csr) (d .csrrs)) ∧
    (w.extractLsb' 12 3 = 0b011#3 → Delivers32 w (.csrrc rd rs1 csr) (d .csrrc)) ∧
    (w.extractLsb' 12 3 = 0b101#3 → Delivers32 w (.csrrwi rd rs1 csr) (d .csrrwi)) ∧
    (w.extractLsb' 12 3 = 0b110#3 → Delivers32 w (.csrrsi rd rs1 csr) (d .csrrsi)) ∧
    (w.extractLsb' 12 3 = 0b111#3 → Delivers32 w (.csrrci rd rs1 csr) (d .csrrci))

/-- R281 to R287, R295: PRIV, looked up by `i[31:20]` alone; the rest of SYSTEM is malformed. -/
def Obligations.PrivInstructionsDeliverMnemonicAlone : Prop :=
  ∀ w : Word, w.extractLsb' 0 7 = 0b1110011#7 →
    let imm : BitVec 12 := w.extractLsb' 20 12
    (w.extractLsb' 12 3 = 0b000#3 →
      (imm = 0x000#12 → Delivers32 w .ecall { mnemonic := .ecall }) ∧
      (imm = 0x001#12 → Delivers32 w .ebreak { mnemonic := .ebreak }) ∧
      (imm = 0x002#12 → Delivers32 w .uret { mnemonic := .uret }) ∧
      (imm = 0x102#12 → Delivers32 w .sret { mnemonic := .sret }) ∧
      (imm = 0x302#12 → Delivers32 w .mret { mnemonic := .mret }) ∧
      (imm = 0x105#12 → Delivers32 w .wfi { mnemonic := .wfi }) ∧
      (imm ∉ [0x000#12, 0x001#12, 0x002#12, 0x102#12, 0x302#12, 0x105#12] → Malformed32 w)) ∧
    (w.extractLsb' 12 3 = 0b100#3 → Malformed32 w)

/-- R296 to R299: FENCE with its flag vector, letter by letter, and FENCE.I. -/
def Obligations.FencesDeliverFlagsOrAreMalformed : Prop :=
  ∀ w : Word, w.extractLsb' 0 7 = 0b0001111#7 →
    let flags : BitVec 8 := w.extractLsb' 20 8
    (w.extractLsb' 12 3 = 0b000#3 → Delivers32 w (.fence flags) { mnemonic := .fence, fence := some flags }) ∧
    (w.extractLsb' 12 3 = 0b001#3 → Delivers32 w .fenceI { mnemonic := .fenceI }) ∧
    (w.extractLsb' 12 3 ≠ 0b000#3 → w.extractLsb' 12 3 ≠ 0b001#3 → Malformed32 w) ∧
    [FenceLetter.sw, .sr, .so, .si, .pw, .pr, .po, .pi].map (fenceHas flags) =
      [w.getLsbD 20, w.getLsbD 21, w.getLsbD 22, w.getLsbD 23, w.getLsbD 24, w.getLsbD 25, w.getLsbD 26, w.getLsbD 27]

/-- R320, R140: C.ADDI4SPN; the all-zero immediate is malformed whatever `c[4:2]` is. -/
def Obligations.CAddi4spnDeliversOrIsMalformed : Prop :=
  ∀ c : Parcel, c.extractLsb' 0 2 = 0b00#2 → c.extractLsb' 13 3 = 0b000#3 →
    let rd : CReg := c.extractLsb' 2 3
    let imm : BitVec 10 := cat 10 (c.extractLsb' 7 4) (cat 6 (c.extractLsb' 11 2) (cat 4 (c.extractLsb' 5 1)
      (cat 3 (c.extractLsb' 6 1) 0#2)))
    (c.extractLsb' 5 8 ≠ 0#8 →
      Delivers16 c (.cAddi4spn rd imm)
        { mnemonic := .cAddi4spn, rd := some (8#5 + rd.setWidth 5), imm := some (imm.setWidth 32) }) ∧
    (c.extractLsb' 5 8 = 0#8 → Malformed16 c)

/-- R321 to R327, R141, R142: the loads and stores of quadrant C0; selector `100` is malformed. -/
def Obligations.QuadrantC0LoadsAndStoresDeliver : Prop :=
  ∀ c : Parcel, c.extractLsb' 0 2 = 0b00#2 →
    let hi : CReg := c.extractLsb' 7 3
    let lo : CReg := c.extractLsb' 2 3
    let x (r : CReg) : Reg := 8#5 + r.setWidth 5
    let lw : BitVec 7 := cat 7 (c.extractLsb' 5 1) (cat 6 (c.extractLsb' 10 3) (cat 3 (c.extractLsb' 6 1) 0#2))
    let ld : BitVec 8 := cat 8 (c.extractLsb' 5 2) (cat 6 (c.extractLsb' 10 3) 0#3)
    let load (m : Mnemonic) (imm : Word) : Decoded :=
      { mnemonic := m, rd := some (x lo), rs1 := some (x hi), imm := some imm }
    let store (m : Mnemonic) (imm : Word) : Decoded :=
      { mnemonic := m, rs1 := some (x hi), rs2 := some (x lo), imm := some imm }
    (c.extractLsb' 13 3 = 0b001#3 → Delivers16 c (.cFld lo hi ld) (load .cFld (ld.setWidth 32))) ∧
    (c.extractLsb' 13 3 = 0b010#3 → Delivers16 c (.cLw lo hi lw) (load .cLw (lw.setWidth 32))) ∧
    (c.extractLsb' 13 3 = 0b011#3 → Delivers16 c (.cFlw lo hi lw) (load .cFlw (lw.setWidth 32))) ∧
    (c.extractLsb' 13 3 = 0b100#3 → Malformed16 c) ∧
    (c.extractLsb' 13 3 = 0b101#3 → Delivers16 c (.cFsd hi lo ld) (store .cFsd (ld.setWidth 32))) ∧
    (c.extractLsb' 13 3 = 0b110#3 → Delivers16 c (.cSw hi lo lw) (store .cSw (lw.setWidth 32))) ∧
    (c.extractLsb' 13 3 = 0b111#3 → Delivers16 c (.cFsw hi lo lw) (store .cFsw (lw.setWidth 32)))

/-- R360 to R362, R374, R143, R147: C.ADDI, C.LI and the jumps of quadrant C1. -/
def Obligations.CAddiCLiAndCompressedJumpsDeliver : Prop :=
  ∀ c : Parcel, c.extractLsb' 0 2 = 0b01#2 →
    let rd : Reg := c.extractLsb' 7 5
    let imm : BitVec 6 := cat 6 (c.extractLsb' 12 1) (c.extractLsb' 2 5)
    let j : BitVec 12 := cat 12 (c.extractLsb' 12 1) (cat 11 (c.extractLsb' 8 1) (cat 10 (c.extractLsb' 9 2)
      (cat 8 (c.extractLsb' 6 1) (cat 7 (c.extractLsb' 7 1) (cat 6 (c.extractLsb' 2 1) (cat 5 (c.extractLsb' 11 1)
      (cat 4 (c.extractLsb' 3 3) 0#1)))))))
    (c.extractLsb' 13 3 = 0b000#3 →
      Delivers16 c (.cAddi rd imm) { mnemonic := .cAddi, rd := some rd, imm := some (imm.signExtend 32) }) ∧
    (c.extractLsb' 13 3 = 0b001#3 → Delivers16 c (.cJal j) { mnemonic := .cJal, imm := some (j.signExtend 32) }) ∧
    (c.extractLsb' 13 3 = 0b010#3 →
      Delivers16 c (.cLi rd imm) { mnemonic := .cLi, rd := some rd, imm := some (imm.signExtend 32) }) ∧
    (c.extractLsb' 13 3 = 0b101#3 → Delivers16 c (.cJ j) { mnemonic := .cJ, imm := some (j.signExtend 32) })

/-- R363 to R365, R144, R145: selector `011` of quadrant C1 splits on `c[11:7] = 2` alone. -/
def Obligations.CAddi16spAndCLuiSplitOnRegisterTwo : Prop :=
  ∀ c : Parcel, c.extractLsb' 0 2 = 0b01#2 → c.extractLsb' 13 3 = 0b011#3 →
    let rd : Reg := c.extractLsb' 7 5
    let sp : BitVec 10 := cat 10 (c.extractLsb' 12 1) (cat 9 (c.extractLsb' 3 2) (cat 7 (c.extractLsb' 5 1)
      (cat 6 (c.extractLsb' 2 1) (cat 5 (c.extractLsb' 6 1) 0#4))))
    let up : BitVec 18 := cat 18 (c.extractLsb' 12 1) (cat 17 (c.extractLsb' 2 5) 0#12)
    (rd = 2#5 →
      Delivers16 c (.cAddi16sp sp) { mnemonic := .cAddi16sp, rd := some 2#5, imm := some (sp.signExtend 32) }) ∧
    (rd ≠ 2#5 →
      Delivers16 c (.cLui rd up) { mnemonic := .cLui, rd := some rd, imm := some (up.signExtend 32) })

/-- R366 to R373, R377: the arithmetic group of quadrant C1, and what of it is malformed. -/
def Obligations.QuadrantC1ArithmeticDeliversOrIsMalformed : Prop :=
  ∀ c : Parcel, c.extractLsb' 0 2 = 0b01#2 → c.extractLsb' 13 3 = 0b100#3 →
    let rd : CReg := c.extractLsb' 7 3
    let rs2 : CReg := c.extractLsb' 2 3
    let imm : BitVec 6 := cat 6 (c.extractLsb' 12 1) (c.extractLsb' 2 5)
    let d (m : Mnemonic) : Decoded :=
      { mnemonic := m, rd := some (8#5 + rd.setWidth 5), rs2 := some (8#5 + rs2.setWidth 5) }
    (c.extractLsb' 10 2 ∈ [0b00#2, 0b01#2] → Malformed16 c) ∧
    (c.extractLsb' 10 2 = 0b10#2 →
      Delivers16 c (.cAndi rd imm)
        { mnemonic := .cAndi, rd := some (8#5 + rd.setWidth 5), imm := some (imm.signExtend 32) }) ∧
    (c.extractLsb' 10 2 = 0b11#2 → c.extractLsb' 12 1 = 0#1 →
      (c.extractLsb' 5 2 = 0b00#2 → Delivers16 c (.cSub rd rs2) (d .cSub)) ∧
      (c.extractLsb' 5 2 = 0b01#2 → Delivers16 c (.cXor rd rs2) (d .cXor)) ∧
      (c.extractLsb' 5 2 = 0b10#2 → Delivers16 c (.cOr rd rs2) (d .cOr)) ∧
      (c.extractLsb' 5 2 = 0b11#2 → Delivers16 c (.cAnd rd rs2) (d .cAnd))) ∧
    (c.extractLsb' 10 2 = 0b11#2 → c.extractLsb' 12 1 = 1#1 → Malformed16 c)

/-- R375, R376, R148: C.BEQZ and C.BNEZ. -/
def Obligations.CompressedBranchesDeliver : Prop :=
  ∀ c : Parcel, c.extractLsb' 0 2 = 0b01#2 →
    let rs1 : CReg := c.extractLsb' 7 3
    let b : BitVec 9 := cat 9 (c.extractLsb' 12 1) (cat 8 (c.extractLsb' 5 2) (cat 6 (c.extractLsb' 2 1)
      (cat 5 (c.extractLsb' 10 2) (cat 3 (c.extractLsb' 3 2) 0#1))))
    let d (m : Mnemonic) : Decoded :=
      { mnemonic := m, rs1 := some (8#5 + rs1.setWidth 5), imm := some (b.signExtend 32) }
    (c.extractLsb' 13 3 = 0b110#3 → Delivers16 c (.cBeqz rs1 b) (d .cBeqz)) ∧
    (c.extractLsb' 13 3 = 0b111#3 → Delivers16 c (.cBnez rs1 b) (d .cBnez))

/-- R400, R401, R146: C.SLLI, and C.SLLI64 for the all-zero shift amount. -/
def Obligations.CSlliAndCSlli64SplitOnShiftAmount : Prop :=
  ∀ c : Parcel, c.extractLsb' 0 2 = 0b10#2 → c.extractLsb' 13 3 = 0b000#3 →
    let rd : Reg := c.extractLsb' 7 5
    let shamt : BitVec 6 := cat 6 (c.extractLsb' 12 1) (c.extractLsb' 2 5)
    (shamt ≠ 0#6 →
      Delivers16 c (.cSlli rd shamt) { mnemonic := .cSlli, rd := some rd, imm := some (shamt.setWidth 32) }) ∧
    (shamt = 0#6 → Delivers16 c (.cSlli64 rd) { mnemonic := .cSlli64, rd := some rd })

/-- R402 to R404, R149, R150: the stack-pointer-relative loads. -/
def Obligations.StackLoadsDeliver : Prop :=
  ∀ c : Parcel, c.extractLsb' 0 2 = 0b10#2 →
    let rd : Reg := c.extractLsb' 7 5
    let ldsp : BitVec 9 := cat 9 (c.extractLsb' 2 3) (cat 6 (c.extractLsb' 12 1) (cat 5 (c.extractLsb' 5 2) 0#3))
    let lwsp : BitVec 8 := cat 8 (c.extractLsb' 2 2) (cat 6 (c.extractLsb' 12 1) (cat 5 (c.extractLsb' 4 3) 0#2))
    (c.extractLsb' 13 3 = 0b001#3 →
      Delivers16 c (.cFldsp rd ldsp) { mnemonic := .cFldsp, rd := some rd, imm := some (ldsp.setWidth 32) }) ∧
    (c.extractLsb' 13 3 = 0b010#3 →
      Delivers16 c (.cLwsp rd lwsp) { mnemonic := .cLwsp, rd := some rd, imm := some (lwsp.setWidth 32) }) ∧
    (c.extractLsb' 13 3 = 0b011#3 →
      Delivers16 c (.cFlwsp rd lwsp) { mnemonic := .cFlwsp, rd := some rd, imm := some (lwsp.setWidth 32) })

/-- R411 to R413, R151, R152: the stack-pointer-relative stores. -/
def Obligations.StackStoresDeliver : Prop :=
  ∀ c : Parcel, c.extractLsb' 0 2 = 0b10#2 →
    let rs2 : Reg := c.extractLsb' 2 5
    let sdsp : BitVec 9 := cat 9 (c.extractLsb' 7 3) (cat 6 (c.extractLsb' 10 3) 0#3)
    let swsp : BitVec 8 := cat 8 (c.extractLsb' 7 2) (cat 6 (c.extractLsb' 9 4) 0#2)
    (c.extractLsb' 13 3 = 0b101#3 →
      Delivers16 c (.cFsdsp rs2 sdsp) { mnemonic := .cFsdsp, rs2 := some rs2, imm := some (sdsp.setWidth 32) }) ∧
    (c.extractLsb' 13 3 = 0b110#3 →
      Delivers16 c (.cSwsp rs2 swsp) { mnemonic := .cSwsp, rs2 := some rs2, imm := some (swsp.setWidth 32) }) ∧
    (c.extractLsb' 13 3 = 0b111#3 →
      Delivers16 c (.cFswsp rs2 swsp) { mnemonic := .cFswsp, rs2 := some rs2, imm := some (swsp.setWidth 32) })

/-- R405 to R410: the register and jump group of quadrant C2. -/
def Obligations.QuadrantC2RegisterAndJumpGroupDelivers : Prop :=
  ∀ c : Parcel, c.extractLsb' 0 2 = 0b10#2 → c.extractLsb' 13 3 = 0b100#3 →
    let b : BitVec 1 := c.extractLsb' 12 1
    let r : Reg := c.extractLsb' 7 5
    let rs2 : Reg := c.extractLsb' 2 5
    (b = 0#1 → rs2 = 0#5 → Delivers16 c (.cJr r) { mnemonic := .cJr, rs1 := some r }) ∧
    (b = 0#1 → rs2 ≠ 0#5 → Delivers16 c (.cMv r rs2) { mnemonic := .cMv, rd := some r, rs2 := some rs2 }) ∧
    (b = 1#1 → r = 0#5 → rs2 = 0#5 → Delivers16 c .cEbreak { mnemonic := .cEbreak }) ∧
    (b = 1#1 → r ≠ 0#5 → rs2 = 0#5 → Delivers16 c (.cJalr r) { mnemonic := .cJalr, rs1 := some r }) ∧
    (b = 1#1 → rs2 ≠ 0#5 → Delivers16 c (.cAdd r rs2) { mnemonic := .cAdd, rd := some r, rs2 := some rs2 })

/-- R440: a framed instruction's step reads all its parcels, applies no resolver and delivers an event with no decoded
record; its execution completes in every state. -/
def Obligations.FramedInstructionsDeliverWithoutDecoding : Prop :=
  ∀ (p0 : Parcel) (rest : List Parcel),
    let ps := p0 :: rest
    let nnn := (p0.extractLsb' 12 3).toNat
    let framed (i : Instr) (cat : Category) (len : Nat) : Prop :=
      decode ps = .instr i ∧ (∀ s : State, exec i s = .next (afterEvent s cat len none)) ∧
        ∀ s : State, Presents s ps → step s = .next (afterEvent (afterReads s ps) cat len none)
    (p0.extractLsb' 0 6 = 0b011111#6 → ps.length = 3 → framed (.framedDoubleWord48 ps) .doubleWord48 6) ∧
    (p0.extractLsb' 0 7 = 0b0111111#7 → ps.length = 4 → framed (.framedQuadWord64 ps) .quadWord64 8) ∧
    (p0.extractLsb' 0 7 = 0b1111111#7 → nnn ≠ 7 → ps.length = 5 + nnn →
      framed (.framedExtended ps) .extended (10 + 2 * nnn)) ∧
    (p0.extractLsb' 0 7 = 0b1111111#7 → nnn = 7 → ps.length = 12 → framed (.framedReserved192 ps) .reserved192 24)

/-! ### Part 2: the step -/

/-- Every well-formed instruction completes in every state, with one event of the category and length its encoding's
first parcel announces, a record for exactly the decodable categories, and exactly the fields of its operand form (R30,
R31, R44). -/
def Obligations.EveryWellFormedInstructionCompletes : Prop :=
  ∀ (i : Instr) (s : State), i.wellFormed = true →
    ∃ (p0 : Parcel) (rest : List Parcel) (d : Option Decoded),
      encode i = p0 :: rest ∧
      exec i s = .next (afterEvent s (classify p0).1 (2 * (encode i).length) d) ∧
      (d.isSome = true ↔ (classify p0).1.code ≤ 1) ∧
      ∀ r, d = some r → MatchesForm r

/-- What no instruction changes, well-formed or not: the stream, byte by byte, its terminator, the source's cursor, the
parameters, the status, the reads and the outcome port; the events it found stay (R44, R22). That a term that is not
well-formed delivers an event too is the model's choice (assumption 15). -/
def Obligations.ExecutionFrame : Prop :=
  ∀ (i : Instr) (s : State), ∃ t : State, exec i s = .next t ∧
    (∀ a, Memory.byteAt t.source.bytes a = Memory.byteAt s.source.bytes a) ∧ t.source = s.source ∧
    t.params = s.params ∧ t.status = s.status ∧ t.reads = s.reads ∧ t.outcome = s.outcome ∧
    ∃ e : Event, t.events = s.events ++ [e] ∧ t.ptr = s.ptr + e.length ∧ e.parcels = s.buffer

/-- R41, R43: when the parcels presented at `ptr` decode to `i`, the step is `i`'s execution on the state after the
reads. -/
def Obligations.StepRunsDecodedInstruction : Prop :=
  ∀ (s : State) (ps : List Parcel) (i : Instr), Presents s ps → decode ps = .instr i →
    step s = exec i (afterReads s ps)

/-- R501, R510: when they decode to nothing, the pass is aborted as malformed, with the tuple and all the parcels.
That an abort is a next state is the model's choice (assumption 1). -/
def Obligations.MalformedInstructionAborts : Prop :=
  ∀ (s : State) (ps : List Parcel) (u : DiagTuple), Presents s ps → decode ps = .rejected (.malformed u) →
    step s = .next (afterAbort s .malformedEncoding ps [] (some u))

/-- R502: a read that finds the stream exhausted aborts the pass as truncated: (a) any read after the first, (b) the
first read when one byte is left. Nothing is decoded (R507). That an abort is a next state is the model's choice
(assumption 1). -/
def Obligations.ExhaustionInsideAnInstructionTruncates : Prop :=
  ∀ (s : State) (ps : List Parcel) (k : Nat), Begins s ps →
    s.answerAt (s.ptr + 2 * ps.length) = some (.eof k) → (ps ≠ [] ∨ k = 1) →
    step s = .next (afterAbort s .truncatedInstruction ps [⟨s.ptr + 2 * ps.length, .eof k⟩] none)

/-- R505: a read that fails otherwise, the first or a later one, aborts the pass as an I/O failure. That an abort is a next
state is the model's choice (assumption 1). -/
def Obligations.ReadFailureAbortsAsIoFailure : Prop :=
  ∀ (s : State) (ps : List Parcel), Begins s ps → s.answerAt (s.ptr + 2 * ps.length) = some .ioError →
    step s = .next (afterAbort s .ioFailure ps [⟨s.ptr + 2 * ps.length, .ioError⟩] none)

/-- R42: the first read finds no byte left: the pass ends cleanly and reports `Done(ptr)`; an exhaustion at a later read
of the step does not end it cleanly. -/
def Obligations.ExhaustionAtABoundaryEndsCleanly : Prop :=
  ∀ s : State, s.status = .running →
    (s.answerAt s.ptr = some (.eof 0) → step s = .next (afterEnd s)) ∧
    (∀ p0 ps k t, Begins s (p0 :: ps) → s.answerAt (s.ptr + 2 * (p0 :: ps).length) = some (.eof k) →
      step s = .next t → ∃ e, t.status = .aborted e ∧ e.kind = .truncatedInstruction)

/-- R508, R510, R503: an abort sets `status`, delivers the record on the outcome port, and changes nothing else; the
record has the step's start modulo `2^PTR_WIDTH` and, only for a malformed encoding, a tuple. That an abort is a next state is the model's
choice (assumption 1). -/
def Obligations.AbortIsPrecise : Prop :=
  ∀ (s t : State) (e : ErrorRecord), step s = .next t → t.status = .aborted e →
    t.outcome = some (.error e) ∧ t.ptr = s.ptr ∧ t.events = s.events ∧ t.buffer = [] ∧ t.params = s.params ∧
    t.source.bytes = s.source.bytes ∧ t.source.terminator = s.source.terminator ∧
    t.source.silentFrom = s.source.silentFrom ∧
    e.offset = (match s.params.ptrWidth with | .bits w _ => s.ptr % 2 ^ w | .unbounded => s.ptr) ∧
    (e.tuple.isSome = true ↔ e.kind = .malformedEncoding) ∧
    ∃ rs, t.reads = s.reads ++ rs ∧ parcelsRead rs = e.parcels

/-- R40, R80, R511: a running pass has a step unless a read of that step is never answered; a pass that ended has none.
That a step which ends the pass, an abort among them, is a next state, and that the machine faults after it, is the model's
choice (assumption 1). -/
def Obligations.StepsExactlyWhileRunning : Prop :=
  ∀ s : State,
    (s.status = .running → (∀ ps, Begins s ps → s.answerAt (s.ptr + 2 * ps.length) ≠ none) → ∃ t, step s = .next t) ∧
    (∀ p, s.status = .done p → step s = .fault (.passDone p)) ∧
    (∀ e, s.status = .aborted e → step s = .fault (.passAborted e))

/-- R80: a read that is never answered leaves the block without a step, wherever in the instruction it comes. That
it stops with this fault is the model's choice (assumption 7). -/
def Obligations.UnansweredReadHolds : Prop :=
  ∀ (s : State) (ps : List Parcel), Begins s ps → s.answerAt (s.ptr + 2 * ps.length) = none →
    step s = .fault (.readUnanswered (s.ptr + 2 * ps.length))

/-- Every step keeps the invariant of a pass: the stream's canonical form, the even `ptr`, the chain of events, the
chain of reads, and that no parcel is dropped or made up. -/
def Obligations.StepKeepsPassInvariant : Prop :=
  ∀ s t : State, Inv s → step s = .next t → Inv t

/-- Every pass begins in the invariant, whatever parameters and stream the host presents. -/
def Obligations.EveryPassBeginsInTheInvariant : Prop :=
  Inv State.reset ∧ ∀ (params : Params) (bytes : List Byte) (terminator : Terminator) (silentFrom : Option Nat),
    Inv (startPass params bytes terminator silentFrom)

/-- R72: no step changes the stream, its terminator or the parameters: every byte and every parcel reads as before.
That nothing else changes the stream during a pass either is the model's reading (assumption 14). -/
def Obligations.StreamIsFixedForThePass : Prop :=
  ∀ s t : State, step s = .next t →
    t.params = s.params ∧ t.source.bytes = s.source.bytes ∧ t.source.terminator = s.source.terminator ∧
    (∀ a, Memory.byteAt t.source.bytes a = Memory.byteAt s.source.bytes a) ∧ ∀ a, t.answerAt a = s.answerAt a

/-- R44, R46: a step that delivers an event advances `ptr` by that instruction's full length; any other step ends the
pass, delivers no event and leaves `ptr`. The event's offset is the old `ptr` modulo `2^PTR_WIDTH`, written out (R9, R30). -/
def Obligations.PtrAdvancesByTheDeliveredLength : Prop :=
  ∀ s t : State, step s = .next t →
    (t.status = .running ∧ ∃ (e : Event) (p0 : Parcel) (rest : List Parcel),
      t.events = s.events ++ [e] ∧
      e.offset = (match s.params.ptrWidth with | .bits w _ => s.ptr % 2 ^ w | .unbounded => s.ptr) ∧
      e.parcels = p0 :: rest ∧
      classify p0 = (e.category, e.parcels.length) ∧ e.length = 2 * (classify p0).2 ∧ t.ptr = s.ptr + e.length) ∨
    (t.status ≠ .running ∧ t.events = s.events ∧ t.ptr = s.ptr)

/-- R43: what an instruction decodes to depends on its bits alone: two states that present the same parcels, whatever
their `ptr`, history and sources, both deliver the same event but for its offset, or both abort with the same kind,
parcels and tuple. That an abort is a next state is the model's choice (assumption 1). -/
def Obligations.SameParcelsSameResult : Prop :=
  ∀ (s t : State) (ps : List Parcel), Presents s ps → Presents t ps →
    (∃ e f : Event, (∃ s', step s = .next s' ∧ s'.events = s.events ++ [e]) ∧
      (∃ t', step t = .next t' ∧ t'.events = t.events ++ [f]) ∧ f = { e with offset := f.offset }) ∨
    (∃ e f : ErrorRecord, (∃ s', step s = .next s' ∧ s'.status = .aborted e) ∧
      (∃ t', step t = .next t' ∧ t'.status = .aborted f) ∧ f = { e with offset := f.offset })

/-- R70, R10: the reads of a step are one after the other from `ptr`, two bytes apart, at most twelve, each answered as
the source answers it, and none comes after one that was not answered with a parcel. -/
def Obligations.ReadsOfAStepAreInOffsetOrder : Prop :=
  ∀ s t : State, step s = .next t →
    ∃ rs, t.reads = s.reads ++ rs ∧ 1 ≤ rs.length ∧ rs.length ≤ 12 ∧
      ∀ (k : Nat) (h : k < rs.length),
        rs[k].offset = s.ptr + 2 * k ∧ s.answerAt (s.ptr + 2 * k) = some rs[k].answer ∧
        (k + 1 < rs.length → ∃ p, rs[k].answer = .ok p)

/-- R45: a pass over a canonical stream whose reads are answered ends, in at most one step for every two bytes left and
one more. That an abort and the clean end are next states is the model's choice (assumption 1). -/
def Obligations.EveryPassEnds : Prop :=
  ∀ s : State, s.status = .running → Memory.wf s.source.bytes = true → AnswersAll s →
    ∃ (k : Nat) (t : State), k ≤ (s.source.bytes.length - s.ptr) / 2 + 1 ∧
      Sys2Proof.core.run k s = .next t ∧ t.status ≠ .running

/-- A stream that is the encodings of well-formed instructions, in either byte order, is delivered back instruction by
instruction: one event each, with its parcels and its record, and then the clean end at the stream's length. -/
def Obligations.StreamOfEncodingsIsDecodedBack : Prop :=
  ∀ (params : Params) (is : List Instr), (∀ i ∈ is, i.wellFormed = true) →
    ∃ t : State,
      Sys2Proof.core.run (is.length + 1)
        (startPass params (is.flatMap (encodeBytes params.byteOrder)) .eof none) = .next t ∧
      t.outcome = some (.done (2 * (is.flatMap encode).length)) ∧
      t.events.map (fun e => e.parcels) = is.map encode ∧
      t.events.map (fun e => e.decoded) = is.map recordOf

/-- R560, R561: reset at any time delivers nothing anew and starts a pass at offset 0 of the stream then presented; the
events already emitted stay delivered, and the first read of the new pass is at offset 0. -/
def Obligations.ResetStartsAPassAtOffsetZero : Prop :=
  ∀ (s : State) (params : Params) (bytes : List Byte) (terminator : Terminator) (silentFrom : Option Nat),
    let r := s.restart params bytes terminator silentFrom
    r.1 = (s.events, s.outcome) ∧ r.2.ptr = 0 ∧ r.2.status = .running ∧ r.2.buffer = [] ∧ r.2.events = [] ∧
    r.2.reads = [] ∧ r.2.outcome = none ∧ r.2.params = params ∧
    (∀ a, Memory.byteAt r.2.source.bytes a = bytes[a]?) ∧
    ∀ t, step r.2 = .next t → ∃ x xs, t.reads = x :: xs ∧ x.offset = 0

/-- The host's table word is fetched and run by the very next step: `withFetchWord` places it where the step fetches, in
the pass's byte order (assumption 4, the model's own). -/
def Obligations.PlacedTableWordIsRunNext : Prop :=
  ∀ (s : State) (nbits w : Nat) (i : Instr), decodeTableWord nbits w = some i →
    ∃ u : State, step (s.withFetchWord nbits w) = exec i u ∧ u.ptr = s.ptr ∧ u.events = s.events ∧
      decode u.buffer = .instr i

/-! ### Part 3: encoding, byte source, immediates -/

/-- Decoding the encoding of a well-formed instruction gives it back, whatever parcels follow. -/
def Obligations.DecodeOfEncodeIsTheInstruction : Prop :=
  ∀ (i : Instr) (rest : List Parcel), i.wellFormed = true → decode (encode i ++ rest) = .instr i

/-- The decoder gives only well-formed instructions. -/
def Obligations.DecodedInstructionsAreWellFormed : Prop :=
  ∀ (ps : List Parcel) (i : Instr), decode ps = .instr i → i.wellFormed = true

/-- Encoding what was decoded restores the word, except the bits the block does not read (R281, R296, R298). That the
encoder writes 0 in those bits is the model's choice (assumption 5): the rules say only that they are not read. -/
def Obligations.EncodeOfDecodeRestoresTheWord : Prop :=
  (∀ (c : Parcel) (i : Instr), decode16 c = some i → encode i = [c]) ∧
  ∀ (w : Word) (i : Instr), decode32 w = some i →
    (w.extractLsb' 0 7 = 0b0001111#7 → w.extractLsb' 12 3 = 0b000#3 → encode i = halves (w &&& 0x0ff0707f#32)) ∧
    (w.extractLsb' 0 7 = 0b0001111#7 → w.extractLsb' 12 3 = 0b001#3 → encode i = halves (w &&& 0x0000707f#32)) ∧
    (w.extractLsb' 0 7 = 0b1110011#7 → w.extractLsb' 12 3 = 0b000#3 → encode i = halves (w &&& 0xfff0707f#32)) ∧
    (w.extractLsb' 0 7 ≠ 0b0001111#7 → (w.extractLsb' 0 7 ≠ 0b1110011#7 ∨ w.extractLsb' 12 3 ≠ 0b000#3) →
      encode i = halves w)

/-- R101 to R106: the classifier by its patterns, over all first parcels. That bits 15 and 11:7 never matter is the spec's
inference from them (R107). -/
def Obligations.ClassifierFollowsItsPatterns : Prop :=
  ∀ p0 : Parcel,
    (p0.extractLsb' 0 2 ≠ 0b11#2 → classify p0 = (.compressed16, 1)) ∧
    (p0.extractLsb' 0 2 = 0b11#2 → p0.extractLsb' 2 3 ≠ 0b111#3 → classify p0 = (.word32, 2)) ∧
    (p0.extractLsb' 0 6 = 0b011111#6 → classify p0 = (.doubleWord48, 3)) ∧
    (p0.extractLsb' 0 7 = 0b0111111#7 → classify p0 = (.quadWord64, 4)) ∧
    (p0.extractLsb' 0 7 = 0b1111111#7 → p0.extractLsb' 12 3 ≠ 0b111#3 →
      classify p0 = (.extended, 5 + (p0.extractLsb' 12 3).toNat)) ∧
    (p0.extractLsb' 0 7 = 0b1111111#7 → p0.extractLsb' 12 3 = 0b111#3 → classify p0 = (.reserved192, 12)) ∧
    ∀ q0 : Parcel, p0.extractLsb' 12 3 = q0.extractLsb' 12 3 → p0.extractLsb' 0 7 = q0.extractLsb' 0 7 →
      classify p0 = classify q0

/-- R61: `MemRead` over the stream of a byte list, for every width of at least one byte. -/
def Obligations.MemReadAnswersFromTheStream : Prop :=
  ∀ (bytes : List Byte) (src : ByteSource) (a n : Nat),
    src.bytes = Memory.ofBytes bytes → src.silentFrom = none → 0 < n →
    src.memRead a n =
      some (if a + n ≤ bytes.length then .ok ((bytes.drop a).take n)
        else match src.terminator with
          | .eof => .eof (bytes.length - a)
          | .ioError => .ioError)

/-- R63: `ReadParcel` combines the two bytes at `a` by the byte order, passes `Eof` and `IoError` on, and no step
switches the byte order. -/
def Obligations.ReadParcelCombinesByByteOrder : Prop :=
  (∀ (src : ByteSource) (a : Nat) (b0 b1 : Byte), src.memRead a 2 = some (.ok [b0, b1]) →
    src.readParcel .little a = some (.ok (cat 16 b1 b0)) ∧ src.readParcel .big a = some (.ok (cat 16 b0 b1))) ∧
  (∀ (src : ByteSource) (o : ByteOrder) (a k : Nat), src.memRead a 2 = some (.eof k) →
    src.readParcel o a = some (.eof k)) ∧
  (∀ (src : ByteSource) (o : ByteOrder) (a : Nat), src.memRead a 2 = some .ioError →
    src.readParcel o a = some .ioError) ∧
  ∀ s t : State, step s = .next t → t.params.byteOrder = s.params.byteOrder

/-- R64: where both parcel reads at the cursor are answered with parcels, so is the contract's one 32-bit read: in little
order its value is the second parcel above the first; in big order the halves are exchanged, so the two readings differ
whenever the parcels do. R64 gives the little-order value and says that the big-order one differs; the value in big order
and the cursor's advance by 4 are the model's reading (assumption 16). -/
def Obligations.WordReadIsTwoParcelsInLittleOrder : Prop :=
  ∀ (src : ByteSource) (p q : Parcel),
    (src.readParcel .little src.cursor = some (.ok p) → src.readParcel .little (src.cursor + 2) = some (.ok q) →
      src.readU32 .little = some (.ok (cat 32 q p), { src with cursor := src.cursor + 4 })) ∧
    (src.readParcel .big src.cursor = some (.ok p) → src.readParcel .big (src.cursor + 2) = some (.ok q) →
      src.readU32 .big = some (.ok (cat 32 p q), { src with cursor := src.cursor + 4 }))

/-- R65: parcel `k` is bits `16k+15 : 16k` of the raw value. That the bits above the parcels are 0 is the model's choice of
a 192-bit container (assumption 6). -/
def Obligations.RawHoldsFirstParcelLowest : Prop :=
  ∀ (ps : List Parcel), ps.length ≤ 12 →
    (∀ (k : Nat) (h : k < ps.length), (rawOf ps).extractLsb' (16 * k) 16 = ps[k]) ∧
    ∀ j, 16 * ps.length ≤ j → (rawOf ps).getLsbD j = false

/-- R13, R131: sign extension is two's complement, zero extension keeps the value. -/
def Obligations.ExtensionsReadAsTheSpecSays : Prop :=
  ∀ (n : Nat) (v : BitVec (n + 1)), n + 1 ≤ 32 →
    (sext32 v).toInt = (if v.getLsbD n then (v.toNat : Int) - 2 ^ (n + 1) else (v.toNat : Int)) ∧
    (zext32 v).toNat = v.toNat

/-- R132: each branch and jump displacement is twice its sign-extended field. -/
def Obligations.DisplacementsAreTwiceTheirField : Prop :=
  (∀ w : Word, sext32 (fieldImmB w) = 2#32 * ((fieldImmB w).extractLsb' 1 12).signExtend 32) ∧
  (∀ w : Word, sext32 (fieldImmJ w) = 2#32 * ((fieldImmJ w).extractLsb' 1 20).signExtend 32) ∧
  (∀ c : Parcel, sext32 (immCJ c) = 2#32 * ((immCJ c).extractLsb' 1 11).signExtend 32) ∧
  (∀ c : Parcel, sext32 (immCB c) = 2#32 * ((immCB c).extractLsb' 1 8).signExtend 32)

/-- The range and step of each immediate (R133 to R152). -/
def Obligations.ImmediatesStayInTheirRanges : Prop :=
  let signed {w : Nat} (v : BitVec w) (lo hi step : Int) : Prop :=
    lo ≤ (sext32 v).toInt ∧ (sext32 v).toInt ≤ hi ∧ (sext32 v).toInt % step = 0
  let unsigned {w : Nat} (v : BitVec w) (hi step : Nat) : Prop := (zext32 v).toNat ≤ hi ∧ (zext32 v).toNat % step = 0
  (∀ i : Word, signed (fieldImmI i) (-2048) 2047 1 ∧ signed (fieldImmS i) (-2048) 2047 1 ∧
    signed (fieldImmB i) (-4096) 4094 2 ∧ signed (fieldImmJ i) (-1048576) 1048574 2 ∧
    unsigned (fieldShamt i) 31 1 ∧ unsigned (fieldCsr i) 4095 1) ∧
  ∀ c : Parcel, unsigned (immCiw c) 1020 4 ∧ unsigned (immCLw c) 124 4 ∧ unsigned (immCLd c) 248 8 ∧
    signed (immCi c) (-32) 31 1 ∧ signed (immC16sp c) (-512) 496 16 ∧ signed (immCLui c) (-131072) 126976 4096 ∧
    unsigned (immCSh c) 63 1 ∧ signed (immCJ c) (-2048) 2046 2 ∧ signed (immCB c) (-256) 254 2 ∧
    unsigned (immCLwsp c) 252 4 ∧ unsigned (immCLdsp c) 504 8 ∧ unsigned (immCSwsp c) 252 4 ∧
    unsigned (immCSdsp c) 504 8

/-- R158, R170, R176: a `Word32` instruction whose opcode is not in the map, the four custom opcodes among them, is
malformed. -/
def Obligations.OpcodesOutsideTheMapAreMalformed : Prop :=
  ∀ w : Word, w.extractLsb' 0 2 = 0b11#2 → w.extractLsb' 2 3 ≠ 0b111#3 →
    w.extractLsb' 0 7 ∉ [0b0110111#7, 0b0010111#7, 0b1101111#7, 0b1100111#7, 0b0000011#7, 0b0100011#7, 0b1100011#7,
      0b0010011#7, 0b0110011#7, 0b1110011#7, 0b0001111#7] →
    Malformed32 w

/-- R501, R504: a decode is malformed exactly when the instruction is one of the two decodable lengths and its resolver
reaches no arm; the tuple is then its fields. No instruction of quadrant C2 is malformed. -/
def Obligations.MalformedExactlyWhenNoArmDecodes : Prop :=
  (∀ (ps : List Parcel) (u : DiagTuple), decode ps = .rejected (.malformed u) ↔
    (∃ c rest, ps = c :: rest ∧ c.extractLsb' 0 2 ≠ 0b11#2 ∧ decode16 c = none ∧
      u = .compressed16 (c.extractLsb' 0 2) (c.extractLsb' 13 3)) ∨
    (∃ p0 p1 rest, ps = p0 :: p1 :: rest ∧ p0.extractLsb' 0 2 = 0b11#2 ∧ p0.extractLsb' 2 3 ≠ 0b111#3 ∧
      decode32 (cat 32 p1 p0) = none ∧
      u = .word32 (p0.extractLsb' 0 7) (p0.extractLsb' 12 3) (p1.extractLsb' 9 7))) ∧
  ∀ c : Parcel, c.extractLsb' 0 2 = 0b10#2 → ∃ i, decode16 c = some i

/-- Words written out bit by bit from the formats decode to their instructions. -/
def Obligations.SampleWordsDecode : Prop :=
  decode [0b0000000010010011#16, 0b0000000001010000#16] = .instr (.addi 1#5 0#5 5#12) ∧
  decode [0b0000111011100011#16, 0b1111111000000000#16] = .instr (.beq 0#5 0#5 (-4#13)) ∧
  decode [0b0010011000100011#16, 0b0000000000010001#16] = .instr (.sw 2#5 1#5 12#12) ∧
  decode [0b0000000001110011#16, 0b0001000000100000#16] = .instr .sret ∧
  decode [0b0100010100000001#16] = .instr (.cLi 10#5 0#6) ∧
  decode [0b0000100000001000#16] = .instr (.cAddi4spn 2#3 16#10) ∧
  decode [0b1001000000000010#16] = .instr .cEbreak ∧
  decode [0b0000000000011111#16, 0x2222#16, 0x3333#16] = .instr (.framedDoubleWord48 [0x001f#16, 0x2222#16, 0x3333#16])

/-- R60, R61: each read of the contract is answered with a value, with exhaustion and the number of bytes left, or with an
I/O failure; a value advances the source's cursor past its bytes (R68); and `read_u16` is the parcel read at the cursor
(R63), the one read the block issues. The model's own: that the reads are `MemRead` at the cursor, that a failing read leaves
the cursor, and that the four bytes of `read_u32` are combined by the byte order, in big order too (assumption 16); that a
silent source answers none of them (assumption 7). -/
def Obligations.ContractReadsAnswerInThreeWays : Prop :=
  ∀ (bytes : List Byte) (src : ByteSource) (o : ByteOrder), src.bytes = Memory.ofBytes bytes →
    let left := bytes.drop src.cursor
    let exhausted {α : Type} : SourceAnswer α :=
      match src.terminator with
      | .eof => .eof left.length
      | .ioError => .ioError
    (src.silentAt src.cursor = false →
      (∀ b rest, left = b :: rest → src.readU8 = some (.ok b, { src with cursor := src.cursor + 1 })) ∧
      (∀ b0 b1 rest, left = b0 :: b1 :: rest →
        src.readU16 o = some (.ok (match o with | .little => cat 16 b1 b0 | .big => cat 16 b0 b1),
          { src with cursor := src.cursor + 2 })) ∧
      (∀ b0 b1 b2 b3 rest, left = b0 :: b1 :: b2 :: b3 :: rest →
        src.readU32 o = some
          (.ok (match o with
            | .little => cat 32 b3 (cat 24 b2 (cat 16 b1 b0))
            | .big => cat 32 b0 (cat 24 b1 (cat 16 b2 b3))),
          { src with cursor := src.cursor + 4 })) ∧
      (left.length < 1 → src.readU8 = some (exhausted, src)) ∧
      (left.length < 2 → src.readU16 o = some (exhausted, src)) ∧
      (left.length < 4 → src.readU32 o = some (exhausted, src))) ∧
    (src.silentAt src.cursor = true → src.readU8 = none ∧ src.readU16 o = none ∧ src.readU32 o = none) ∧
    src.readParcel o src.cursor = (src.readU16 o).map (fun r => r.1)
end

