-- ==== Sys2Proof/Laws/Bits.lean ====
section
/-! SUPPORT. Bits: concatenation, the scattered immediates as concatenations (spec 30_encoding.md rules R134 to R152),
and the fields of each instruction format (rules R112 and R122). -/

namespace Sys2Proof

/-- A bit of a concatenation. -/
theorem getLsbD_cat (w : Nat) {n m : Nat} (a : BitVec n) (b : BitVec m) (k : Nat) :
    (cat w a b).getLsbD k = (decide (k < w) && if k < m then b.getLsbD k else a.getLsbD (k - m)) := by
  simp [cat, BitVec.getLsbD_append]

/-! ### Scattered immediates as concatenations -/

/-- R134 -/
theorem fieldImmS_eq_cat (i : Word) :
    fieldImmS i = cat 12 (i.extractLsb' 25 7) (i.extractLsb' 7 5) := by
  apply BitVec.eq_of_getLsbD_eq
  intro k hk
  interval_cases k <;> simp [fieldImmS, scatter, getLsbD_cat, -BitVec.getLsbD_eq_getElem]

/-- R135 -/
theorem fieldImmB_eq_cat (i : Word) :
    fieldImmB i =
      cat 13 (i.extractLsb' 31 1) (cat 12 (i.extractLsb' 7 1) (cat 11 (i.extractLsb' 25 6)
        (cat 5 (i.extractLsb' 8 4) 0#1))) := by
  apply BitVec.eq_of_getLsbD_eq
  intro k hk
  interval_cases k <;> simp [fieldImmB, scatter, getLsbD_cat, -BitVec.getLsbD_eq_getElem]

/-- R137 -/
theorem fieldImmJ_eq_cat (i : Word) :
    fieldImmJ i =
      cat 21 (i.extractLsb' 31 1) (cat 20 (i.extractLsb' 12 8) (cat 12 (i.extractLsb' 20 1)
        (cat 11 (i.extractLsb' 21 10) 0#1))) := by
  apply BitVec.eq_of_getLsbD_eq
  intro k hk
  interval_cases k <;> simp [fieldImmJ, scatter, getLsbD_cat, -BitVec.getLsbD_eq_getElem]

/-- R140 -/
theorem immCiw_eq_cat (c : Parcel) :
    immCiw c =
      cat 10 (c.extractLsb' 7 4) (cat 6 (c.extractLsb' 11 2) (cat 4 (c.extractLsb' 5 1)
        (cat 3 (c.extractLsb' 6 1) 0#2))) := by
  apply BitVec.eq_of_getLsbD_eq
  intro k hk
  interval_cases k <;> simp [immCiw, scatter, getLsbD_cat, -BitVec.getLsbD_eq_getElem]

/-- R141 -/
theorem immCLw_eq_cat (c : Parcel) :
    immCLw c = cat 7 (c.extractLsb' 5 1) (cat 6 (c.extractLsb' 10 3) (cat 3 (c.extractLsb' 6 1) 0#2)) := by
  apply BitVec.eq_of_getLsbD_eq
  intro k hk
  interval_cases k <;> simp [immCLw, scatter, getLsbD_cat, -BitVec.getLsbD_eq_getElem]

/-- R142 -/
theorem immCLd_eq_cat (c : Parcel) :
    immCLd c = cat 8 (c.extractLsb' 5 2) (cat 6 (c.extractLsb' 10 3) 0#3) := by
  apply BitVec.eq_of_getLsbD_eq
  intro k hk
  interval_cases k <;> simp [immCLd, scatter, getLsbD_cat, -BitVec.getLsbD_eq_getElem]

/-- R143 -/
theorem immCi_eq_cat (c : Parcel) :
    immCi c = cat 6 (c.extractLsb' 12 1) (c.extractLsb' 2 5) := by
  apply BitVec.eq_of_getLsbD_eq
  intro k hk
  interval_cases k <;> simp [immCi, scatter, getLsbD_cat, -BitVec.getLsbD_eq_getElem]

/-- R144 -/
theorem immC16sp_eq_cat (c : Parcel) :
    immC16sp c =
      cat 10 (c.extractLsb' 12 1) (cat 9 (c.extractLsb' 3 2) (cat 7 (c.extractLsb' 5 1)
        (cat 6 (c.extractLsb' 2 1) (cat 5 (c.extractLsb' 6 1) 0#4)))) := by
  apply BitVec.eq_of_getLsbD_eq
  intro k hk
  interval_cases k <;> simp [immC16sp, scatter, getLsbD_cat, -BitVec.getLsbD_eq_getElem]

/-- R145 -/
theorem immCLui_eq_cat (c : Parcel) :
    immCLui c = cat 18 (c.extractLsb' 12 1) (cat 17 (c.extractLsb' 2 5) 0#12) := by
  apply BitVec.eq_of_getLsbD_eq
  intro k hk
  interval_cases k <;> simp [immCLui, scatter, getLsbD_cat, -BitVec.getLsbD_eq_getElem]

/-- R146 -/
theorem immCSh_eq_cat (c : Parcel) :
    immCSh c = cat 6 (c.extractLsb' 12 1) (c.extractLsb' 2 5) := by
  apply BitVec.eq_of_getLsbD_eq
  intro k hk
  interval_cases k <;> simp [immCSh, scatter, getLsbD_cat, -BitVec.getLsbD_eq_getElem]

/-- R147 -/
theorem immCJ_eq_cat (c : Parcel) :
    immCJ c =
      cat 12 (c.extractLsb' 12 1) (cat 11 (c.extractLsb' 8 1) (cat 10 (c.extractLsb' 9 2)
        (cat 8 (c.extractLsb' 6 1) (cat 7 (c.extractLsb' 7 1) (cat 6 (c.extractLsb' 2 1)
        (cat 5 (c.extractLsb' 11 1) (cat 4 (c.extractLsb' 3 3) 0#1))))))) := by
  apply BitVec.eq_of_getLsbD_eq
  intro k hk
  interval_cases k <;> simp [immCJ, scatter, getLsbD_cat, -BitVec.getLsbD_eq_getElem]

/-- R148 -/
theorem immCB_eq_cat (c : Parcel) :
    immCB c =
      cat 9 (c.extractLsb' 12 1) (cat 8 (c.extractLsb' 5 2) (cat 6 (c.extractLsb' 2 1)
        (cat 5 (c.extractLsb' 10 2) (cat 3 (c.extractLsb' 3 2) 0#1)))) := by
  apply BitVec.eq_of_getLsbD_eq
  intro k hk
  interval_cases k <;> simp [immCB, scatter, getLsbD_cat, -BitVec.getLsbD_eq_getElem]

/-- R149 -/
theorem immCLwsp_eq_cat (c : Parcel) :
    immCLwsp c = cat 8 (c.extractLsb' 2 2) (cat 6 (c.extractLsb' 12 1) (cat 5 (c.extractLsb' 4 3) 0#2)) := by
  apply BitVec.eq_of_getLsbD_eq
  intro k hk
  interval_cases k <;> simp [immCLwsp, scatter, getLsbD_cat, -BitVec.getLsbD_eq_getElem]

/-- R150 -/
theorem immCLdsp_eq_cat (c : Parcel) :
    immCLdsp c = cat 9 (c.extractLsb' 2 3) (cat 6 (c.extractLsb' 12 1) (cat 5 (c.extractLsb' 5 2) 0#3)) := by
  apply BitVec.eq_of_getLsbD_eq
  intro k hk
  interval_cases k <;> simp [immCLdsp, scatter, getLsbD_cat, -BitVec.getLsbD_eq_getElem]

/-- R151 -/
theorem immCSwsp_eq_cat (c : Parcel) :
    immCSwsp c = cat 8 (c.extractLsb' 7 2) (cat 6 (c.extractLsb' 9 4) 0#2) := by
  apply BitVec.eq_of_getLsbD_eq
  intro k hk
  interval_cases k <;> simp [immCSwsp, scatter, getLsbD_cat, -BitVec.getLsbD_eq_getElem]

/-- R152 -/
theorem immCSdsp_eq_cat (c : Parcel) :
    immCSdsp c = cat 9 (c.extractLsb' 7 3) (cat 6 (c.extractLsb' 10 3) 0#3) := by
  apply BitVec.eq_of_getLsbD_eq
  intro k hk
  interval_cases k <;> simp [immCSdsp, scatter, getLsbD_cat, -BitVec.getLsbD_eq_getElem]

/-! ### Low zero bits -/

/-- A value whose low `k` bits are zero has those bits clear. -/
theorem getLsbD_of_lowZero {w k : Nat} {v : BitVec w} (h : lowZero k v = true) {j : Nat} (hj : j < k) :
    v.getLsbD j = false := by
  have h' : v.extractLsb' 0 k = 0#k := by simpa [lowZero] using h
  have := congrArg (fun x => x.getLsbD j) h'
  simpa [hj, -BitVec.getLsbD_eq_getElem] using this

/-! ### The fields of the 32-bit formats (R112) -/

@[simp] theorem opcode_wordR (f7 : BitVec 7) (rs2 rs1 : Reg) (f3 : BitVec 3) (rd : Reg) (op : BitVec 7) :
    opcode (wordR f7 rs2 rs1 f3 rd op) = op := by
  apply BitVec.eq_of_getLsbD_eq
  intro k hk
  interval_cases k <;> simp [opcode, wordR, getLsbD_cat, -BitVec.getLsbD_eq_getElem]

@[simp] theorem funct3_wordR (f7 : BitVec 7) (rs2 rs1 : Reg) (f3 : BitVec 3) (rd : Reg) (op : BitVec 7) :
    funct3 (wordR f7 rs2 rs1 f3 rd op) = f3 := by
  apply BitVec.eq_of_getLsbD_eq
  intro k hk
  interval_cases k <;> simp [funct3, wordR, getLsbD_cat, -BitVec.getLsbD_eq_getElem]

@[simp] theorem funct7_wordR (f7 : BitVec 7) (rs2 rs1 : Reg) (f3 : BitVec 3) (rd : Reg) (op : BitVec 7) :
    funct7 (wordR f7 rs2 rs1 f3 rd op) = f7 := by
  apply BitVec.eq_of_getLsbD_eq
  intro k hk
  interval_cases k <;> simp [funct7, wordR, getLsbD_cat, -BitVec.getLsbD_eq_getElem]

@[simp] theorem fieldRd_wordR (f7 : BitVec 7) (rs2 rs1 : Reg) (f3 : BitVec 3) (rd : Reg) (op : BitVec 7) :
    fieldRd (wordR f7 rs2 rs1 f3 rd op) = rd := by
  apply BitVec.eq_of_getLsbD_eq
  intro k hk
  interval_cases k <;> simp [fieldRd, wordR, getLsbD_cat, -BitVec.getLsbD_eq_getElem]

@[simp] theorem fieldRs1_wordR (f7 : BitVec 7) (rs2 rs1 : Reg) (f3 : BitVec 3) (rd : Reg) (op : BitVec 7) :
    fieldRs1 (wordR f7 rs2 rs1 f3 rd op) = rs1 := by
  apply BitVec.eq_of_getLsbD_eq
  intro k hk
  interval_cases k <;> simp [fieldRs1, wordR, getLsbD_cat, -BitVec.getLsbD_eq_getElem]

@[simp] theorem fieldRs2_wordR (f7 : BitVec 7) (rs2 rs1 : Reg) (f3 : BitVec 3) (rd : Reg) (op : BitVec 7) :
    fieldRs2 (wordR f7 rs2 rs1 f3 rd op) = rs2 := by
  apply BitVec.eq_of_getLsbD_eq
  intro k hk
  interval_cases k <;> simp [fieldRs2, wordR, getLsbD_cat, -BitVec.getLsbD_eq_getElem]

@[simp] theorem fieldShamt_wordR (f7 : BitVec 7) (rs2 rs1 : Reg) (f3 : BitVec 3) (rd : Reg) (op : BitVec 7) :
    fieldShamt (wordR f7 rs2 rs1 f3 rd op) = rs2 := by
  apply BitVec.eq_of_getLsbD_eq
  intro k hk
  interval_cases k <;> simp [fieldShamt, wordR, getLsbD_cat, -BitVec.getLsbD_eq_getElem]

@[simp] theorem opcode_wordI (imm : BitVec 12) (rs1 : Reg) (f3 : BitVec 3) (rd : Reg) (op : BitVec 7) :
    opcode (wordI imm rs1 f3 rd op) = op := by
  apply BitVec.eq_of_getLsbD_eq
  intro k hk
  interval_cases k <;> simp [opcode, wordI, getLsbD_cat, -BitVec.getLsbD_eq_getElem]

@[simp] theorem funct3_wordI (imm : BitVec 12) (rs1 : Reg) (f3 : BitVec 3) (rd : Reg) (op : BitVec 7) :
    funct3 (wordI imm rs1 f3 rd op) = f3 := by
  apply BitVec.eq_of_getLsbD_eq
  intro k hk
  interval_cases k <;> simp [funct3, wordI, getLsbD_cat, -BitVec.getLsbD_eq_getElem]

@[simp] theorem fieldRd_wordI (imm : BitVec 12) (rs1 : Reg) (f3 : BitVec 3) (rd : Reg) (op : BitVec 7) :
    fieldRd (wordI imm rs1 f3 rd op) = rd := by
  apply BitVec.eq_of_getLsbD_eq
  intro k hk
  interval_cases k <;> simp [fieldRd, wordI, getLsbD_cat, -BitVec.getLsbD_eq_getElem]

@[simp] theorem fieldRs1_wordI (imm : BitVec 12) (rs1 : Reg) (f3 : BitVec 3) (rd : Reg) (op : BitVec 7) :
    fieldRs1 (wordI imm rs1 f3 rd op) = rs1 := by
  apply BitVec.eq_of_getLsbD_eq
  intro k hk
  interval_cases k <;> simp [fieldRs1, wordI, getLsbD_cat, -BitVec.getLsbD_eq_getElem]

@[simp] theorem fieldImmI_wordI (imm : BitVec 12) (rs1 : Reg) (f3 : BitVec 3) (rd : Reg) (op : BitVec 7) :
    fieldImmI (wordI imm rs1 f3 rd op) = imm := by
  apply BitVec.eq_of_getLsbD_eq
  intro k hk
  interval_cases k <;> simp [fieldImmI, wordI, getLsbD_cat, -BitVec.getLsbD_eq_getElem]

@[simp] theorem fieldCsr_wordI (imm : BitVec 12) (rs1 : Reg) (f3 : BitVec 3) (rd : Reg) (op : BitVec 7) :
    fieldCsr (wordI imm rs1 f3 rd op) = imm := by
  apply BitVec.eq_of_getLsbD_eq
  intro k hk
  interval_cases k <;> simp [fieldCsr, wordI, getLsbD_cat, -BitVec.getLsbD_eq_getElem]

@[simp] theorem opcode_wordS (imm : BitVec 12) (rs2 rs1 : Reg) (f3 : BitVec 3) (op : BitVec 7) :
    opcode (wordS imm rs2 rs1 f3 op) = op := by
  apply BitVec.eq_of_getLsbD_eq
  intro k hk
  interval_cases k <;> simp [opcode, wordS, getLsbD_cat, -BitVec.getLsbD_eq_getElem]

@[simp] theorem funct3_wordS (imm : BitVec 12) (rs2 rs1 : Reg) (f3 : BitVec 3) (op : BitVec 7) :
    funct3 (wordS imm rs2 rs1 f3 op) = f3 := by
  apply BitVec.eq_of_getLsbD_eq
  intro k hk
  interval_cases k <;> simp [funct3, wordS, getLsbD_cat, -BitVec.getLsbD_eq_getElem]

@[simp] theorem fieldRs1_wordS (imm : BitVec 12) (rs2 rs1 : Reg) (f3 : BitVec 3) (op : BitVec 7) :
    fieldRs1 (wordS imm rs2 rs1 f3 op) = rs1 := by
  apply BitVec.eq_of_getLsbD_eq
  intro k hk
  interval_cases k <;> simp [fieldRs1, wordS, getLsbD_cat, -BitVec.getLsbD_eq_getElem]

@[simp] theorem fieldRs2_wordS (imm : BitVec 12) (rs2 rs1 : Reg) (f3 : BitVec 3) (op : BitVec 7) :
    fieldRs2 (wordS imm rs2 rs1 f3 op) = rs2 := by
  apply BitVec.eq_of_getLsbD_eq
  intro k hk
  interval_cases k <;> simp [fieldRs2, wordS, getLsbD_cat, -BitVec.getLsbD_eq_getElem]

@[simp] theorem fieldImmS_wordS (imm : BitVec 12) (rs2 rs1 : Reg) (f3 : BitVec 3) (op : BitVec 7) :
    fieldImmS (wordS imm rs2 rs1 f3 op) = imm := by
  apply BitVec.eq_of_getLsbD_eq
  intro k hk
  interval_cases k <;> simp [fieldImmS, wordS, scatter, getLsbD_cat, -BitVec.getLsbD_eq_getElem]

@[simp] theorem opcode_wordB (imm : BitVec 13) (rs2 rs1 : Reg) (f3 : BitVec 3) (op : BitVec 7) :
    opcode (wordB imm rs2 rs1 f3 op) = op := by
  apply BitVec.eq_of_getLsbD_eq
  intro k hk
  interval_cases k <;> simp [opcode, wordB, getLsbD_cat, -BitVec.getLsbD_eq_getElem]

@[simp] theorem funct3_wordB (imm : BitVec 13) (rs2 rs1 : Reg) (f3 : BitVec 3) (op : BitVec 7) :
    funct3 (wordB imm rs2 rs1 f3 op) = f3 := by
  apply BitVec.eq_of_getLsbD_eq
  intro k hk
  interval_cases k <;> simp [funct3, wordB, getLsbD_cat, -BitVec.getLsbD_eq_getElem]

@[simp] theorem fieldRs1_wordB (imm : BitVec 13) (rs2 rs1 : Reg) (f3 : BitVec 3) (op : BitVec 7) :
    fieldRs1 (wordB imm rs2 rs1 f3 op) = rs1 := by
  apply BitVec.eq_of_getLsbD_eq
  intro k hk
  interval_cases k <;> simp [fieldRs1, wordB, getLsbD_cat, -BitVec.getLsbD_eq_getElem]

@[simp] theorem fieldRs2_wordB (imm : BitVec 13) (rs2 rs1 : Reg) (f3 : BitVec 3) (op : BitVec 7) :
    fieldRs2 (wordB imm rs2 rs1 f3 op) = rs2 := by
  apply BitVec.eq_of_getLsbD_eq
  intro k hk
  interval_cases k <;> simp [fieldRs2, wordB, getLsbD_cat, -BitVec.getLsbD_eq_getElem]

@[simp] theorem fieldImmB_wordB (imm : BitVec 13) (rs2 rs1 : Reg) (f3 : BitVec 3) (op : BitVec 7)
    (h : lowZero 1 imm = true) :
    fieldImmB (wordB imm rs2 rs1 f3 op) = imm := by
  apply BitVec.eq_of_getLsbD_eq
  intro k hk
  have hz := @getLsbD_of_lowZero _ _ _ h
  interval_cases k <;> simp [fieldImmB, wordB, scatter, getLsbD_cat, hz, -BitVec.getLsbD_eq_getElem]

@[simp] theorem opcode_wordU (imm : BitVec 32) (rd : Reg) (op : BitVec 7) :
    opcode (wordU imm rd op) = op := by
  apply BitVec.eq_of_getLsbD_eq
  intro k hk
  interval_cases k <;> simp [opcode, wordU, getLsbD_cat, -BitVec.getLsbD_eq_getElem]

@[simp] theorem fieldRd_wordU (imm : BitVec 32) (rd : Reg) (op : BitVec 7) :
    fieldRd (wordU imm rd op) = rd := by
  apply BitVec.eq_of_getLsbD_eq
  intro k hk
  interval_cases k <;> simp [fieldRd, wordU, getLsbD_cat, -BitVec.getLsbD_eq_getElem]

@[simp] theorem fieldImmU_wordU (imm : BitVec 32) (rd : Reg) (op : BitVec 7)
    (h : lowZero 12 imm = true) :
    fieldImmU (wordU imm rd op) = imm := by
  apply BitVec.eq_of_getLsbD_eq
  intro k hk
  have hz := @getLsbD_of_lowZero _ _ _ h
  interval_cases k <;> simp [fieldImmU, wordU, getLsbD_cat, hz, -BitVec.getLsbD_eq_getElem]

@[simp] theorem opcode_wordJ (imm : BitVec 21) (rd : Reg) (op : BitVec 7) :
    opcode (wordJ imm rd op) = op := by
  apply BitVec.eq_of_getLsbD_eq
  intro k hk
  interval_cases k <;> simp [opcode, wordJ, getLsbD_cat, -BitVec.getLsbD_eq_getElem]

@[simp] theorem fieldRd_wordJ (imm : BitVec 21) (rd : Reg) (op : BitVec 7) :
    fieldRd (wordJ imm rd op) = rd := by
  apply BitVec.eq_of_getLsbD_eq
  intro k hk
  interval_cases k <;> simp [fieldRd, wordJ, getLsbD_cat, -BitVec.getLsbD_eq_getElem]

@[simp] theorem fieldImmJ_wordJ (imm : BitVec 21) (rd : Reg) (op : BitVec 7)
    (h : lowZero 1 imm = true) :
    fieldImmJ (wordJ imm rd op) = imm := by
  apply BitVec.eq_of_getLsbD_eq
  intro k hk
  have hz := @getLsbD_of_lowZero _ _ _ h
  interval_cases k <;> simp [fieldImmJ, wordJ, scatter, getLsbD_cat, hz, -BitVec.getLsbD_eq_getElem]

/-- The fence flags of an encoded `fence` (R113, R296). -/
@[simp] theorem fieldFence_wordI (fm : BitVec 4) (flags : BitVec 8) (rs1 : Reg) (f3 : BitVec 3) (rd : Reg)
    (op : BitVec 7) : fieldFence (wordI (cat 12 fm flags) rs1 f3 rd op) = flags := by
  apply BitVec.eq_of_getLsbD_eq
  intro k hk
  interval_cases k <;> simp [fieldFence, wordI, getLsbD_cat, -BitVec.getLsbD_eq_getElem]

/-! ### The fields of the 16-bit formats (R122) -/

@[simp] theorem quadrant_parcelCr (f4 : BitVec 4) (rd rs2 : Reg) (q : BitVec 2) :
    quadrant (parcelCr f4 rd rs2 q) = q := by
  apply BitVec.eq_of_getLsbD_eq
  intro k hk
  interval_cases k <;> simp [quadrant, parcelCr, getLsbD_cat, -BitVec.getLsbD_eq_getElem]

@[simp] theorem selector_parcelCr (f4 : BitVec 4) (rd rs2 : Reg) (q : BitVec 2) :
    selector (parcelCr f4 rd rs2 q) = f4.extractLsb' 1 3 := by
  apply BitVec.eq_of_getLsbD_eq
  intro k hk
  interval_cases k <;> simp [selector, parcelCr, getLsbD_cat, -BitVec.getLsbD_eq_getElem]

@[simp] theorem cBit12_parcelCr (f4 : BitVec 4) (rd rs2 : Reg) (q : BitVec 2) :
    cBit12 (parcelCr f4 rd rs2 q) = f4.extractLsb' 0 1 := by
  apply BitVec.eq_of_getLsbD_eq
  intro k hk
  interval_cases k
  simp [cBit12, parcelCr, getLsbD_cat, -BitVec.getLsbD_eq_getElem]

@[simp] theorem cRd_parcelCr (f4 : BitVec 4) (rd rs2 : Reg) (q : BitVec 2) :
    cRd (parcelCr f4 rd rs2 q) = rd := by
  apply BitVec.eq_of_getLsbD_eq
  intro k hk
  interval_cases k <;> simp [cRd, parcelCr, getLsbD_cat, -BitVec.getLsbD_eq_getElem]

@[simp] theorem cRs2_parcelCr (f4 : BitVec 4) (rd rs2 : Reg) (q : BitVec 2) :
    cRs2 (parcelCr f4 rd rs2 q) = rs2 := by
  apply BitVec.eq_of_getLsbD_eq
  intro k hk
  interval_cases k <;> simp [cRs2, parcelCr, getLsbD_cat, -BitVec.getLsbD_eq_getElem]

@[simp] theorem quadrant_parcelCi (f3 : BitVec 3) (hi : BitVec 1) (rd : Reg) (lo : BitVec 5) (q : BitVec 2) :
    quadrant (parcelCi f3 hi rd lo q) = q := by
  apply BitVec.eq_of_getLsbD_eq
  intro k hk
  interval_cases k <;> simp [quadrant, parcelCi, getLsbD_cat, -BitVec.getLsbD_eq_getElem]

@[simp] theorem selector_parcelCi (f3 : BitVec 3) (hi : BitVec 1) (rd : Reg) (lo : BitVec 5) (q : BitVec 2) :
    selector (parcelCi f3 hi rd lo q) = f3 := by
  apply BitVec.eq_of_getLsbD_eq
  intro k hk
  interval_cases k <;> simp [selector, parcelCi, getLsbD_cat, -BitVec.getLsbD_eq_getElem]

@[simp] theorem cBit12_parcelCi (f3 : BitVec 3) (hi : BitVec 1) (rd : Reg) (lo : BitVec 5) (q : BitVec 2) :
    cBit12 (parcelCi f3 hi rd lo q) = hi := by
  apply BitVec.eq_of_getLsbD_eq
  intro k hk
  interval_cases k
  simp [cBit12, parcelCi, getLsbD_cat, -BitVec.getLsbD_eq_getElem]

@[simp] theorem cRd_parcelCi (f3 : BitVec 3) (hi : BitVec 1) (rd : Reg) (lo : BitVec 5) (q : BitVec 2) :
    cRd (parcelCi f3 hi rd lo q) = rd := by
  apply BitVec.eq_of_getLsbD_eq
  intro k hk
  interval_cases k <;> simp [cRd, parcelCi, getLsbD_cat, -BitVec.getLsbD_eq_getElem]

@[simp] theorem cRs2_parcelCi (f3 : BitVec 3) (hi : BitVec 1) (rd : Reg) (lo : BitVec 5) (q : BitVec 2) :
    cRs2 (parcelCi f3 hi rd lo q) = lo := by
  apply BitVec.eq_of_getLsbD_eq
  intro k hk
  interval_cases k <;> simp [cRs2, parcelCi, getLsbD_cat, -BitVec.getLsbD_eq_getElem]

@[simp] theorem quadrant_parcelCss (f3 : BitVec 3) (imm : BitVec 6) (rs2 : Reg) (q : BitVec 2) :
    quadrant (parcelCss f3 imm rs2 q) = q := by
  apply BitVec.eq_of_getLsbD_eq
  intro k hk
  interval_cases k <;> simp [quadrant, parcelCss, getLsbD_cat, -BitVec.getLsbD_eq_getElem]

@[simp] theorem selector_parcelCss (f3 : BitVec 3) (imm : BitVec 6) (rs2 : Reg) (q : BitVec 2) :
    selector (parcelCss f3 imm rs2 q) = f3 := by
  apply BitVec.eq_of_getLsbD_eq
  intro k hk
  interval_cases k <;> simp [selector, parcelCss, getLsbD_cat, -BitVec.getLsbD_eq_getElem]

@[simp] theorem cRs2_parcelCss (f3 : BitVec 3) (imm : BitVec 6) (rs2 : Reg) (q : BitVec 2) :
    cRs2 (parcelCss f3 imm rs2 q) = rs2 := by
  apply BitVec.eq_of_getLsbD_eq
  intro k hk
  interval_cases k <;> simp [cRs2, parcelCss, getLsbD_cat, -BitVec.getLsbD_eq_getElem]

@[simp] theorem quadrant_parcelCiw (f3 : BitVec 3) (imm : BitVec 8) (rd : CReg) (q : BitVec 2) :
    quadrant (parcelCiw f3 imm rd q) = q := by
  apply BitVec.eq_of_getLsbD_eq
  intro k hk
  interval_cases k <;> simp [quadrant, parcelCiw, getLsbD_cat, -BitVec.getLsbD_eq_getElem]

@[simp] theorem selector_parcelCiw (f3 : BitVec 3) (imm : BitVec 8) (rd : CReg) (q : BitVec 2) :
    selector (parcelCiw f3 imm rd q) = f3 := by
  apply BitVec.eq_of_getLsbD_eq
  intro k hk
  interval_cases k <;> simp [selector, parcelCiw, getLsbD_cat, -BitVec.getLsbD_eq_getElem]

@[simp] theorem cLow_parcelCiw (f3 : BitVec 3) (imm : BitVec 8) (rd : CReg) (q : BitVec 2) :
    cLow (parcelCiw f3 imm rd q) = rd := by
  apply BitVec.eq_of_getLsbD_eq
  intro k hk
  interval_cases k <;> simp [cLow, parcelCiw, getLsbD_cat, -BitVec.getLsbD_eq_getElem]

@[simp] theorem quadrant_parcelCl (f3 hi : BitVec 3) (rs1 : CReg) (lo : BitVec 2) (rd : CReg) (q : BitVec 2) :
    quadrant (parcelCl f3 hi rs1 lo rd q) = q := by
  apply BitVec.eq_of_getLsbD_eq
  intro k hk
  interval_cases k <;> simp [quadrant, parcelCl, getLsbD_cat, -BitVec.getLsbD_eq_getElem]

@[simp] theorem selector_parcelCl (f3 hi : BitVec 3) (rs1 : CReg) (lo : BitVec 2) (rd : CReg) (q : BitVec 2) :
    selector (parcelCl f3 hi rs1 lo rd q) = f3 := by
  apply BitVec.eq_of_getLsbD_eq
  intro k hk
  interval_cases k <;> simp [selector, parcelCl, getLsbD_cat, -BitVec.getLsbD_eq_getElem]

@[simp] theorem cHigh_parcelCl (f3 hi : BitVec 3) (rs1 : CReg) (lo : BitVec 2) (rd : CReg) (q : BitVec 2) :
    cHigh (parcelCl f3 hi rs1 lo rd q) = rs1 := by
  apply BitVec.eq_of_getLsbD_eq
  intro k hk
  interval_cases k <;> simp [cHigh, parcelCl, getLsbD_cat, -BitVec.getLsbD_eq_getElem]

@[simp] theorem cLow_parcelCl (f3 hi : BitVec 3) (rs1 : CReg) (lo : BitVec 2) (rd : CReg) (q : BitVec 2) :
    cLow (parcelCl f3 hi rs1 lo rd q) = rd := by
  apply BitVec.eq_of_getLsbD_eq
  intro k hk
  interval_cases k <;> simp [cLow, parcelCl, getLsbD_cat, -BitVec.getLsbD_eq_getElem]

@[simp] theorem quadrant_parcelCa (f6 : BitVec 6) (rd : CReg) (f2 : BitVec 2) (rs2 : CReg) (q : BitVec 2) :
    quadrant (parcelCa f6 rd f2 rs2 q) = q := by
  apply BitVec.eq_of_getLsbD_eq
  intro k hk
  interval_cases k <;> simp [quadrant, parcelCa, getLsbD_cat, -BitVec.getLsbD_eq_getElem]

@[simp] theorem selector_parcelCa (f6 : BitVec 6) (rd : CReg) (f2 : BitVec 2) (rs2 : CReg) (q : BitVec 2) :
    selector (parcelCa f6 rd f2 rs2 q) = f6.extractLsb' 3 3 := by
  apply BitVec.eq_of_getLsbD_eq
  intro k hk
  interval_cases k <;> simp [selector, parcelCa, getLsbD_cat, -BitVec.getLsbD_eq_getElem]

@[simp] theorem cBit12_parcelCa (f6 : BitVec 6) (rd : CReg) (f2 : BitVec 2) (rs2 : CReg) (q : BitVec 2) :
    cBit12 (parcelCa f6 rd f2 rs2 q) = f6.extractLsb' 2 1 := by
  apply BitVec.eq_of_getLsbD_eq
  intro k hk
  interval_cases k
  simp [cBit12, parcelCa, getLsbD_cat, -BitVec.getLsbD_eq_getElem]

@[simp] theorem cFunct2_parcelCa (f6 : BitVec 6) (rd : CReg) (f2 : BitVec 2) (rs2 : CReg) (q : BitVec 2) :
    cFunct2 (parcelCa f6 rd f2 rs2 q) = f6.extractLsb' 0 2 := by
  apply BitVec.eq_of_getLsbD_eq
  intro k hk
  interval_cases k <;> simp [cFunct2, parcelCa, getLsbD_cat, -BitVec.getLsbD_eq_getElem]

@[simp] theorem cFunct2b_parcelCa (f6 : BitVec 6) (rd : CReg) (f2 : BitVec 2) (rs2 : CReg) (q : BitVec 2) :
    cFunct2b (parcelCa f6 rd f2 rs2 q) = f2 := by
  apply BitVec.eq_of_getLsbD_eq
  intro k hk
  interval_cases k <;> simp [cFunct2b, parcelCa, getLsbD_cat, -BitVec.getLsbD_eq_getElem]

@[simp] theorem cHigh_parcelCa (f6 : BitVec 6) (rd : CReg) (f2 : BitVec 2) (rs2 : CReg) (q : BitVec 2) :
    cHigh (parcelCa f6 rd f2 rs2 q) = rd := by
  apply BitVec.eq_of_getLsbD_eq
  intro k hk
  interval_cases k <;> simp [cHigh, parcelCa, getLsbD_cat, -BitVec.getLsbD_eq_getElem]

@[simp] theorem cLow_parcelCa (f6 : BitVec 6) (rd : CReg) (f2 : BitVec 2) (rs2 : CReg) (q : BitVec 2) :
    cLow (parcelCa f6 rd f2 rs2 q) = rs2 := by
  apply BitVec.eq_of_getLsbD_eq
  intro k hk
  interval_cases k <;> simp [cLow, parcelCa, getLsbD_cat, -BitVec.getLsbD_eq_getElem]

@[simp] theorem quadrant_parcelCb (f3 : BitVec 3) (imm : BitVec 9) (rs1 : CReg) (q : BitVec 2) :
    quadrant (parcelCb f3 imm rs1 q) = q := by
  apply BitVec.eq_of_getLsbD_eq
  intro k hk
  interval_cases k <;> simp [quadrant, parcelCb, getLsbD_cat, -BitVec.getLsbD_eq_getElem]

@[simp] theorem selector_parcelCb (f3 : BitVec 3) (imm : BitVec 9) (rs1 : CReg) (q : BitVec 2) :
    selector (parcelCb f3 imm rs1 q) = f3 := by
  apply BitVec.eq_of_getLsbD_eq
  intro k hk
  interval_cases k <;> simp [selector, parcelCb, getLsbD_cat, -BitVec.getLsbD_eq_getElem]

@[simp] theorem cHigh_parcelCb (f3 : BitVec 3) (imm : BitVec 9) (rs1 : CReg) (q : BitVec 2) :
    cHigh (parcelCb f3 imm rs1 q) = rs1 := by
  apply BitVec.eq_of_getLsbD_eq
  intro k hk
  interval_cases k <;> simp [cHigh, parcelCb, getLsbD_cat, -BitVec.getLsbD_eq_getElem]

@[simp] theorem immCB_parcelCb (f3 : BitVec 3) (imm : BitVec 9) (rs1 : CReg) (q : BitVec 2)
    (h : lowZero 1 imm = true) :
    immCB (parcelCb f3 imm rs1 q) = imm := by
  apply BitVec.eq_of_getLsbD_eq
  intro k hk
  have hz := @getLsbD_of_lowZero _ _ _ h
  interval_cases k <;> simp [immCB, parcelCb, scatter, getLsbD_cat, hz, -BitVec.getLsbD_eq_getElem]

@[simp] theorem quadrant_parcelCj (f3 : BitVec 3) (imm : BitVec 12) (q : BitVec 2) :
    quadrant (parcelCj f3 imm q) = q := by
  apply BitVec.eq_of_getLsbD_eq
  intro k hk
  interval_cases k <;> simp [quadrant, parcelCj, getLsbD_cat, -BitVec.getLsbD_eq_getElem]

@[simp] theorem selector_parcelCj (f3 : BitVec 3) (imm : BitVec 12) (q : BitVec 2) :
    selector (parcelCj f3 imm q) = f3 := by
  apply BitVec.eq_of_getLsbD_eq
  intro k hk
  interval_cases k <;> simp [selector, parcelCj, getLsbD_cat, -BitVec.getLsbD_eq_getElem]

@[simp] theorem immCJ_parcelCj (f3 : BitVec 3) (imm : BitVec 12) (q : BitVec 2)
    (h : lowZero 1 imm = true) :
    immCJ (parcelCj f3 imm q) = imm := by
  apply BitVec.eq_of_getLsbD_eq
  intro k hk
  have hz := @getLsbD_of_lowZero _ _ _ h
  interval_cases k <;> simp [immCJ, parcelCj, scatter, getLsbD_cat, hz, -BitVec.getLsbD_eq_getElem]

/-! ### The fields of the parcels with a compound immediate -/

@[simp] theorem quadrant_parcelClWord (f3 : BitVec 3) (imm : BitVec 7) (rs1 rd : CReg) :
    quadrant (parcelClWord f3 imm rs1 rd) = 0b00#2 := by
  simp [parcelClWord]

@[simp] theorem selector_parcelClWord (f3 : BitVec 3) (imm : BitVec 7) (rs1 rd : CReg) :
    selector (parcelClWord f3 imm rs1 rd) = f3 := by
  simp [parcelClWord]

@[simp] theorem cHigh_parcelClWord (f3 : BitVec 3) (imm : BitVec 7) (rs1 rd : CReg) :
    cHigh (parcelClWord f3 imm rs1 rd) = rs1 := by
  simp [parcelClWord]

@[simp] theorem cLow_parcelClWord (f3 : BitVec 3) (imm : BitVec 7) (rs1 rd : CReg) :
    cLow (parcelClWord f3 imm rs1 rd) = rd := by
  simp [parcelClWord]

@[simp] theorem quadrant_parcelClDouble (f3 : BitVec 3) (imm : BitVec 8) (rs1 rd : CReg) :
    quadrant (parcelClDouble f3 imm rs1 rd) = 0b00#2 := by
  simp [parcelClDouble]

@[simp] theorem selector_parcelClDouble (f3 : BitVec 3) (imm : BitVec 8) (rs1 rd : CReg) :
    selector (parcelClDouble f3 imm rs1 rd) = f3 := by
  simp [parcelClDouble]

@[simp] theorem cHigh_parcelClDouble (f3 : BitVec 3) (imm : BitVec 8) (rs1 rd : CReg) :
    cHigh (parcelClDouble f3 imm rs1 rd) = rs1 := by
  simp [parcelClDouble]

@[simp] theorem cLow_parcelClDouble (f3 : BitVec 3) (imm : BitVec 8) (rs1 rd : CReg) :
    cLow (parcelClDouble f3 imm rs1 rd) = rd := by
  simp [parcelClDouble]

@[simp] theorem quadrant_parcelCi6 (f3 : BitVec 3) (imm : BitVec 6) (rd : Reg) (q : BitVec 2) :
    quadrant (parcelCi6 f3 imm rd q) = q := by
  simp [parcelCi6]

@[simp] theorem selector_parcelCi6 (f3 : BitVec 3) (imm : BitVec 6) (rd : Reg) (q : BitVec 2) :
    selector (parcelCi6 f3 imm rd q) = f3 := by
  simp [parcelCi6]

@[simp] theorem cRd_parcelCi6 (f3 : BitVec 3) (imm : BitVec 6) (rd : Reg) (q : BitVec 2) :
    cRd (parcelCi6 f3 imm rd q) = rd := by
  simp [parcelCi6]

@[simp] theorem quadrant_parcelCiWord (f3 : BitVec 3) (imm : BitVec 8) (rd : Reg) :
    quadrant (parcelCiWord f3 imm rd) = 0b10#2 := by
  simp [parcelCiWord]

@[simp] theorem selector_parcelCiWord (f3 : BitVec 3) (imm : BitVec 8) (rd : Reg) :
    selector (parcelCiWord f3 imm rd) = f3 := by
  simp [parcelCiWord]

@[simp] theorem cRd_parcelCiWord (f3 : BitVec 3) (imm : BitVec 8) (rd : Reg) :
    cRd (parcelCiWord f3 imm rd) = rd := by
  simp [parcelCiWord]

/-! ### The immediates of the 16-bit formats -/

@[simp] theorem immCiw_parcelCiw (f3 : BitVec 3) (imm : BitVec 10) (rd : CReg) (q : BitVec 2)
    (h : lowZero 2 imm = true) :
    immCiw (parcelCiw f3 (cat 8 (imm.extractLsb' 4 2) (cat 6 (imm.extractLsb' 6 4)
      (cat 2 (imm.extractLsb' 2 1) (imm.extractLsb' 3 1)))) rd q) = imm := by
  apply BitVec.eq_of_getLsbD_eq
  intro k hk
  have hz := @getLsbD_of_lowZero _ _ _ h
  interval_cases k <;> simp [immCiw, parcelCiw, scatter, getLsbD_cat, hz, -BitVec.getLsbD_eq_getElem]

@[simp] theorem immCLw_parcelClWord (f3 : BitVec 3) (imm : BitVec 7) (rs1 rd : CReg)
    (h : lowZero 2 imm = true) :
    immCLw (parcelClWord f3 imm rs1 rd) = imm := by
  apply BitVec.eq_of_getLsbD_eq
  intro k hk
  have hz := @getLsbD_of_lowZero _ _ _ h
  interval_cases k <;> simp [immCLw, parcelClWord, parcelCl, scatter, getLsbD_cat, hz, -BitVec.getLsbD_eq_getElem]

@[simp] theorem immCLd_parcelClDouble (f3 : BitVec 3) (imm : BitVec 8) (rs1 rd : CReg)
    (h : lowZero 3 imm = true) :
    immCLd (parcelClDouble f3 imm rs1 rd) = imm := by
  apply BitVec.eq_of_getLsbD_eq
  intro k hk
  have hz := @getLsbD_of_lowZero _ _ _ h
  interval_cases k <;> simp [immCLd, parcelClDouble, parcelCl, scatter, getLsbD_cat, hz, -BitVec.getLsbD_eq_getElem]

@[simp] theorem immCi_parcelCi6 (f3 : BitVec 3) (imm : BitVec 6) (rd : Reg) (q : BitVec 2) :
    immCi (parcelCi6 f3 imm rd q) = imm := by
  apply BitVec.eq_of_getLsbD_eq
  intro k hk
  interval_cases k <;> simp [immCi, parcelCi6, parcelCi, scatter, getLsbD_cat, -BitVec.getLsbD_eq_getElem]

@[simp] theorem immCSh_parcelCi6 (f3 : BitVec 3) (imm : BitVec 6) (rd : Reg) (q : BitVec 2) :
    immCSh (parcelCi6 f3 imm rd q) = imm := by
  apply BitVec.eq_of_getLsbD_eq
  intro k hk
  interval_cases k <;> simp [immCSh, parcelCi6, parcelCi, scatter, getLsbD_cat, -BitVec.getLsbD_eq_getElem]

@[simp] theorem immCSh_parcelCi (f3 : BitVec 3) (hi : BitVec 1) (rd : Reg) (lo : BitVec 5) (q : BitVec 2) :
    immCSh (parcelCi f3 hi rd lo q) = cat 6 hi lo := by
  apply BitVec.eq_of_getLsbD_eq
  intro k hk
  interval_cases k <;> simp [immCSh, parcelCi, scatter, getLsbD_cat, -BitVec.getLsbD_eq_getElem]

@[simp] theorem immC16sp_parcelCi (f3 : BitVec 3) (imm : BitVec 10) (rd : Reg) (q : BitVec 2)
    (h : lowZero 4 imm = true) :
    immC16sp (parcelCi f3 (imm.extractLsb' 9 1) rd (cat 5 (imm.extractLsb' 4 1) (cat 4 (imm.extractLsb' 6 1)
      (cat 3 (imm.extractLsb' 7 2) (imm.extractLsb' 5 1)))) q) = imm := by
  apply BitVec.eq_of_getLsbD_eq
  intro k hk
  have hz := @getLsbD_of_lowZero _ _ _ h
  interval_cases k <;> simp [immC16sp, parcelCi, scatter, getLsbD_cat, hz, -BitVec.getLsbD_eq_getElem]

@[simp] theorem immCLui_parcelCi (f3 : BitVec 3) (imm : BitVec 18) (rd : Reg) (q : BitVec 2)
    (h : lowZero 12 imm = true) :
    immCLui (parcelCi f3 (imm.extractLsb' 17 1) rd (imm.extractLsb' 12 5) q) = imm := by
  apply BitVec.eq_of_getLsbD_eq
  intro k hk
  have hz := @getLsbD_of_lowZero _ _ _ h
  interval_cases k <;> simp [immCLui, parcelCi, scatter, getLsbD_cat, hz, -BitVec.getLsbD_eq_getElem]

@[simp] theorem immCLwsp_parcelCiWord (f3 : BitVec 3) (imm : BitVec 8) (rd : Reg)
    (h : lowZero 2 imm = true) :
    immCLwsp (parcelCiWord f3 imm rd) = imm := by
  apply BitVec.eq_of_getLsbD_eq
  intro k hk
  have hz := @getLsbD_of_lowZero _ _ _ h
  interval_cases k <;> simp [immCLwsp, parcelCiWord, parcelCi, scatter, getLsbD_cat, hz, -BitVec.getLsbD_eq_getElem]

@[simp] theorem immCLdsp_parcelCi (f3 : BitVec 3) (imm : BitVec 9) (rd : Reg) (q : BitVec 2)
    (h : lowZero 3 imm = true) :
    immCLdsp (parcelCi f3 (imm.extractLsb' 5 1) rd (cat 5 (imm.extractLsb' 3 2) (imm.extractLsb' 6 3)) q) = imm := by
  apply BitVec.eq_of_getLsbD_eq
  intro k hk
  have hz := @getLsbD_of_lowZero _ _ _ h
  interval_cases k <;> simp [immCLdsp, parcelCi, scatter, getLsbD_cat, hz, -BitVec.getLsbD_eq_getElem]

@[simp] theorem immCSwsp_parcelCss (f3 : BitVec 3) (imm : BitVec 8) (rs2 : Reg) (q : BitVec 2)
    (h : lowZero 2 imm = true) :
    immCSwsp (parcelCss f3 (cat 6 (imm.extractLsb' 2 4) (imm.extractLsb' 6 2)) rs2 q) = imm := by
  apply BitVec.eq_of_getLsbD_eq
  intro k hk
  have hz := @getLsbD_of_lowZero _ _ _ h
  interval_cases k <;> simp [immCSwsp, parcelCss, scatter, getLsbD_cat, hz, -BitVec.getLsbD_eq_getElem]

@[simp] theorem immCSdsp_parcelCss (f3 : BitVec 3) (imm : BitVec 9) (rs2 : Reg) (q : BitVec 2)
    (h : lowZero 3 imm = true) :
    immCSdsp (parcelCss f3 (cat 6 (imm.extractLsb' 3 3) (imm.extractLsb' 6 3)) rs2 q) = imm := by
  apply BitVec.eq_of_getLsbD_eq
  intro k hk
  have hz := @getLsbD_of_lowZero _ _ _ h
  interval_cases k <;> simp [immCSdsp, parcelCss, scatter, getLsbD_cat, hz, -BitVec.getLsbD_eq_getElem]

@[simp] theorem quadrant_parcelCbImm (f3 : BitVec 3) (imm : BitVec 6) (f2 : BitVec 2) (rd : CReg) (q : BitVec 2) :
    quadrant (parcelCbImm f3 imm f2 rd q) = q := by
  apply BitVec.eq_of_getLsbD_eq
  intro k hk
  interval_cases k <;> simp [quadrant, parcelCbImm, getLsbD_cat, -BitVec.getLsbD_eq_getElem]

@[simp] theorem selector_parcelCbImm (f3 : BitVec 3) (imm : BitVec 6) (f2 : BitVec 2) (rd : CReg) (q : BitVec 2) :
    selector (parcelCbImm f3 imm f2 rd q) = f3 := by
  apply BitVec.eq_of_getLsbD_eq
  intro k hk
  interval_cases k <;> simp [selector, parcelCbImm, getLsbD_cat, -BitVec.getLsbD_eq_getElem]

@[simp] theorem cFunct2_parcelCbImm (f3 : BitVec 3) (imm : BitVec 6) (f2 : BitVec 2) (rd : CReg) (q : BitVec 2) :
    cFunct2 (parcelCbImm f3 imm f2 rd q) = f2 := by
  apply BitVec.eq_of_getLsbD_eq
  intro k hk
  interval_cases k <;> simp [cFunct2, parcelCbImm, getLsbD_cat, -BitVec.getLsbD_eq_getElem]

@[simp] theorem cHigh_parcelCbImm (f3 : BitVec 3) (imm : BitVec 6) (f2 : BitVec 2) (rd : CReg) (q : BitVec 2) :
    cHigh (parcelCbImm f3 imm f2 rd q) = rd := by
  apply BitVec.eq_of_getLsbD_eq
  intro k hk
  interval_cases k <;> simp [cHigh, parcelCbImm, getLsbD_cat, -BitVec.getLsbD_eq_getElem]

@[simp] theorem immCi_parcelCbImm (f3 : BitVec 3) (imm : BitVec 6) (f2 : BitVec 2) (rd : CReg) (q : BitVec 2) :
    immCi (parcelCbImm f3 imm f2 rd q) = imm := by
  apply BitVec.eq_of_getLsbD_eq
  intro k hk
  interval_cases k <;> simp [immCi, parcelCbImm, scatter, getLsbD_cat, -BitVec.getLsbD_eq_getElem]

/-! ### The framed classes (R107) -/

theorem classify_doubleWord48 (p0 : Parcel) (h : p0.extractLsb' 0 6 = 0b011111#6) :
    classify p0 = (.doubleWord48, 3) := by
  have e1 : p0.extractLsb' 0 2 = 0b11#2 := by
    have := congrArg (fun v => v.extractLsb' 0 2) h
    simpa using this
  have e2 : p0.extractLsb' 2 3 = 0b111#3 := by
    have := congrArg (fun v => v.extractLsb' 2 3) h
    simpa using this
  have e3 : p0.extractLsb' 5 1 = 0#1 := by
    have := congrArg (fun v => v.extractLsb' 5 1) h
    simpa using this
  simp [classify, e1, e2, e3]

theorem classify_quadWord64 (p0 : Parcel) (h : p0.extractLsb' 0 7 = 0b0111111#7) :
    classify p0 = (.quadWord64, 4) := by
  have e1 : p0.extractLsb' 0 2 = 0b11#2 := by
    have := congrArg (fun v => v.extractLsb' 0 2) h
    simpa using this
  have e2 : p0.extractLsb' 2 3 = 0b111#3 := by
    have := congrArg (fun v => v.extractLsb' 2 3) h
    simpa using this
  have e3 : p0.extractLsb' 5 1 = 1#1 := by
    have := congrArg (fun v => v.extractLsb' 5 1) h
    simpa using this
  have e4 : p0.extractLsb' 6 1 = 0#1 := by
    have := congrArg (fun v => v.extractLsb' 6 1) h
    simpa using this
  simp [classify, e1, e2, e3, e4]

theorem classify_extended (p0 : Parcel) (h : p0.extractLsb' 0 7 = 0b1111111#7)
    (hn : p0.extractLsb' 12 3 ≠ 0b111#3) :
    classify p0 = (.extended, 5 + (p0.extractLsb' 12 3).toNat) := by
  have e1 : p0.extractLsb' 0 2 = 0b11#2 := by
    have := congrArg (fun v => v.extractLsb' 0 2) h
    simpa using this
  have e2 : p0.extractLsb' 2 3 = 0b111#3 := by
    have := congrArg (fun v => v.extractLsb' 2 3) h
    simpa using this
  have e3 : p0.extractLsb' 5 1 = 1#1 := by
    have := congrArg (fun v => v.extractLsb' 5 1) h
    simpa using this
  have e4 : p0.extractLsb' 6 1 = 1#1 := by
    have := congrArg (fun v => v.extractLsb' 6 1) h
    simpa using this
  simp [classify, lengthField, e1, e2, e3, e4, hn]

theorem classify_reserved192 (p0 : Parcel) (h : p0.extractLsb' 0 7 = 0b1111111#7)
    (hn : p0.extractLsb' 12 3 = 0b111#3) :
    classify p0 = (.reserved192, 12) := by
  have e1 : p0.extractLsb' 0 2 = 0b11#2 := by
    have := congrArg (fun v => v.extractLsb' 0 2) h
    simpa using this
  have e2 : p0.extractLsb' 2 3 = 0b111#3 := by
    have := congrArg (fun v => v.extractLsb' 2 3) h
    simpa using this
  have e3 : p0.extractLsb' 5 1 = 1#1 := by
    have := congrArg (fun v => v.extractLsb' 5 1) h
    simpa using this
  have e4 : p0.extractLsb' 6 1 = 1#1 := by
    have := congrArg (fun v => v.extractLsb' 6 1) h
    simpa using this
  simp [classify, lengthField, e1, e2, e3, e4, hn]

/-! ### The class of an encoded 32-bit instruction -/

/-- An opcode that ends in `11` but not in `11111` is that of a `Word32` instruction (R102). -/
theorem classify_low_of_opcode (i : Word) (h1 : (opcode i).extractLsb' 0 2 = 0b11#2)
    (h2 : (opcode i).extractLsb' 2 3 ≠ 0b111#3) : classify (i.extractLsb' 0 16) = (.word32, 2) := by
  have e1 : (i.extractLsb' 0 16).extractLsb' 0 2 = 0b11#2 := by
    rw [← h1]
    apply BitVec.eq_of_getLsbD_eq
    intro k hk
    interval_cases k <;> simp [opcode, -BitVec.getLsbD_eq_getElem]
  have e2 : (i.extractLsb' 0 16).extractLsb' 2 3 = (opcode i).extractLsb' 2 3 := by
    apply BitVec.eq_of_getLsbD_eq
    intro k hk
    interval_cases k <;> simp [opcode, -BitVec.getLsbD_eq_getElem]
  simp [classify, e1, e2, h2]

/-- The two halves of a 32-bit instruction are it (R65). -/
@[simp] theorem wordOf_halves (i : Word) : wordOf (i.extractLsb' 0 16) (i.extractLsb' 16 16) = i := by
  apply BitVec.eq_of_getLsbD_eq
  intro k hk
  by_cases h : k < 16
  · simp [wordOf, getLsbD_cat, hk, h, -BitVec.getLsbD_eq_getElem]
  · have h1 : k - 16 < 16 := by omega
    have h2 : 16 + (k - 16) = k := by omega
    simp [wordOf, getLsbD_cat, hk, h, h1, h2, -BitVec.getLsbD_eq_getElem]

/-- The decoder on the halves of a `Word32` instruction is the 32-bit resolver (R43). -/
theorem decode_halves (i : Word) (h1 : (opcode i).extractLsb' 0 2 = 0b11#2)
    (h2 : (opcode i).extractLsb' 2 3 ≠ 0b111#3) : decode (halves i) = resolved (tuple32 i) (decode32 i) := by
  simp [decode, halves, classify_low_of_opcode i h1 h2, decodeAs]

/-- The decoder on a `Compressed16` parcel is the 16-bit resolver (R43). -/
theorem decode_parcel (c : Parcel) (h : quadrant c ≠ 0b11#2) : decode [c] = resolved (tuple16 c) (decode16 c) := by
  have hc : classify c = (.compressed16, 1) := by
    simp only [quadrant] at h
    simp [classify, h]
  simp [decode, hc, decodeAs]

end Sys2Proof
end

