-- ==== Sys2Proof/Laws/Memory.lean ====
section
/-! SUPPORT. The stream and the reads of it: the canonical form and what keeps it, one byte of it, and one spec lemma
for `MemRead` and `ReadParcel` (spec 20_memory.md rules R61 and R63). -/

namespace Sys2Proof.Machine

/-! ### The canonical form -/

theorem Memory.ofBytesAt_risesFrom (bs : List Byte) : ∀ a, Memory.risesFrom a (Memory.ofBytesAt a bs) = true := by
  induction bs with
  | nil => intro a; rfl
  | cons b bs ih => intro a; simp [Memory.ofBytesAt, Memory.risesFrom, ih]

/-- The stream of a byte list is canonical. -/
@[simp] theorem Memory.ofBytes_wf (bs : List Byte) : Memory.wf (Memory.ofBytes bs) = true :=
  Memory.ofBytesAt_risesFrom bs 0

/-- Loading bytes keeps the canonical form (and gives it to any stream). -/
@[simp] theorem Memory.place_wf (m : Memory) (a : Nat) (bs : List Byte) : Memory.wf (Memory.place m a bs) = true :=
  Memory.ofBytes_wf _

theorem Memory.eq_ofBytesAt_of_rises (m : Memory) :
    ∀ a, Memory.risesFrom a m = true → m = Memory.ofBytesAt a (Memory.toBytes m) := by
  induction m with
  | nil => intro a _; rfl
  | cons c m ih =>
    intro a h
    obtain ⟨k, b⟩ := c
    simp only [Memory.risesFrom, Bool.and_eq_true, beq_iff_eq] at h
    obtain ⟨rfl, h⟩ := h
    simp only [Memory.toBytes, List.map_cons, Memory.ofBytesAt, List.cons.injEq, true_and]
    exact ih _ h

/-- A canonical stream is the stream of its bytes: equal streams are equal data. -/
theorem Memory.eq_ofBytes_of_wf {m : Memory} (h : Memory.wf m = true) : m = Memory.ofBytes (Memory.toBytes m) :=
  Memory.eq_ofBytesAt_of_rises m 0 h

@[simp] theorem Memory.length_toBytes (m : Memory) : (Memory.toBytes m).length = m.length := by
  simp [Memory.toBytes]

theorem Memory.toBytes_ofBytesAt (bs : List Byte) : ∀ a, Memory.toBytes (Memory.ofBytesAt a bs) = bs := by
  induction bs with
  | nil => intro a; rfl
  | cons b bs ih =>
    intro a
    have := ih (a + 1)
    simp only [Memory.toBytes] at this
    simp [Memory.ofBytesAt, Memory.toBytes, this]

@[simp] theorem Memory.toBytes_ofBytes (bs : List Byte) : Memory.toBytes (Memory.ofBytes bs) = bs :=
  Memory.toBytes_ofBytesAt bs 0

@[simp] theorem Memory.length_ofBytes (bs : List Byte) : (Memory.ofBytes bs).length = bs.length := by
  rw [← Memory.length_toBytes, Memory.toBytes_ofBytes]

/-! ### One byte -/

theorem Memory.byteAt_ofBytesAt (bs : List Byte) :
    ∀ a k, Memory.byteAt (Memory.ofBytesAt a bs) k = if a ≤ k then bs[k - a]? else none := by
  induction bs with
  | nil => intro a k; simp [Memory.ofBytesAt, Memory.byteAt]
  | cons b bs ih =>
    intro a k
    simp only [Memory.ofBytesAt, Memory.byteAt, ih]
    by_cases hk : a = k
    · subst hk; simp
    · by_cases h : a ≤ k
      · have h1 : a + 1 ≤ k := by omega
        have h2 : k - a = (k - (a + 1)) + 1 := by omega
        simp [hk, h, h1, h2]
      · have h1 : ¬ a + 1 ≤ k := by omega
        simp [hk, h, h1]

/-- The byte at an offset of a byte list's stream. -/
@[simp] theorem Memory.byteAt_ofBytes (bs : List Byte) (k : Nat) : Memory.byteAt (Memory.ofBytes bs) k = bs[k]? := by
  simp [Memory.ofBytes, Memory.byteAt_ofBytesAt]

/-- In a canonical stream exactly the offsets below its length hold a byte (R62). -/
theorem Memory.byteAt_isSome_iff {m : Memory} (h : Memory.wf m = true) (k : Nat) :
    (Memory.byteAt m k).isSome = true ↔ k < m.length := by
  rw [Memory.eq_ofBytes_of_wf h]
  simp

/-- A byte inside the loaded bytes reads as loaded. -/
theorem Memory.byteAt_place_inside (m : Memory) (a : Nat) (bs : List Byte) (k : Nat) (h : k < bs.length) :
    Memory.byteAt (Memory.place m a bs) (a + k) = bs[k]? := by
  have hl : ((Memory.toBytes m).take a ++ List.replicate (a - (Memory.toBytes m).length) (0 : Byte)).length = a := by
    simp only [List.length_append, List.length_take, List.length_replicate]; omega
  simp only [Memory.place, Memory.byteAt_ofBytes]
  rw [List.append_assoc, List.getElem?_append_right (by omega), hl, List.getElem?_append_left (by omega)]
  congr 1; omega

/-- A byte of the stream outside the loaded bytes reads as before. -/
theorem Memory.byteAt_place_outside (m : Memory) (h : Memory.wf m = true) (a : Nat) (bs : List Byte) (k : Nat)
    (hk : k < m.length) (ho : k < a ∨ a + bs.length ≤ k) :
    Memory.byteAt (Memory.place m a bs) k = Memory.byteAt m k := by
  obtain ⟨xs, rfl⟩ : ∃ xs, m = Memory.ofBytes xs := ⟨_, Memory.eq_ofBytes_of_wf h⟩
  rw [Memory.length_ofBytes] at hk
  have hl : (xs.take a ++ List.replicate (a - xs.length) (0 : Byte)).length = a := by
    simp only [List.length_append, List.length_take, List.length_replicate]; omega
  simp only [Memory.place, Memory.byteAt_ofBytes, Memory.toBytes_ofBytes]
  rcases ho with ho | ho
  · rw [List.append_assoc, List.getElem?_append_left (by omega),
      List.getElem?_append_left (by rw [List.length_take]; omega), List.getElem?_take_of_lt ho]
  · rw [List.append_assoc, List.getElem?_append_right (by omega), hl, List.getElem?_append_right (by omega),
      List.getElem?_drop]
    congr 1; omega

/-! ### Reads -/

/-- `n` bytes of a byte list's stream. -/
theorem Memory.bytesFrom_ofBytes (bs : List Byte) :
    ∀ n a, a + n ≤ bs.length → Memory.bytesFrom (Memory.ofBytes bs) a n = some ((bs.drop a).take n) := by
  intro n
  induction n with
  | zero => intro a _; simp [Memory.bytesFrom]
  | succ n ih =>
    intro a h
    have ha : a < bs.length := by omega
    have hd : bs.drop a = bs[a] :: bs.drop (a + 1) := by simp
    simp only [Memory.bytesFrom, Memory.byteAt_ofBytes, ih (a + 1) (by omega), List.getElem?_eq_getElem ha, hd,
      List.take_succ_cons]

/-- A read that the stream's end cuts off holds no value. -/
theorem Memory.bytesFrom_ofBytes_short (bs : List Byte) :
    ∀ n a, 0 < n → bs.length < a + n → Memory.bytesFrom (Memory.ofBytes bs) a n = none := by
  intro n
  induction n with
  | zero => intro a h; omega
  | succ n ih =>
    intro a _ h
    by_cases ha : a < bs.length
    · have := ih (a + 1) (by omega) (by omega)
      simp only [Memory.bytesFrom, this]
      cases Memory.byteAt (Memory.ofBytes bs) a <;> rfl
    · have : bs[a]? = none := by simp; omega
      simp [Memory.bytesFrom, this]

/-- The bytes left at an offset, at most `n`. -/
theorem Memory.available_ofBytes (bs : List Byte) :
    ∀ n a, Memory.available (Memory.ofBytes bs) a n = min n (bs.length - a) := by
  intro n
  induction n with
  | zero => intro a; simp [Memory.available]
  | succ n ih =>
    intro a
    by_cases h : a < bs.length
    · simp [Memory.available, ih, h]; omega
    · simp [Memory.available, h]; omega

/-- `combineBytes` of two bytes: the parcel of R63. -/
theorem combineBytes_two (o : ByteOrder) (b0 b1 : Byte) :
    combineBytes 16 o [b0, b1] = match o with | .little => cat 16 b1 b0 | .big => cat 16 b0 b1 := by
  cases o <;>
  · apply BitVec.eq_of_getLsbD_eq
    intro k hk
    simp only [combineBytes, cat, List.reverse_cons, List.reverse_nil, List.nil_append, List.cons_append,
      List.foldr_cons, List.foldr_nil, BitVec.getLsbD_or, BitVec.getLsbD_shiftLeft, BitVec.getLsbD_setWidth,
      BitVec.getLsbD_append, BitVec.getLsbD_zero, BitVec.ofNat_eq_ofNat]
    have : k - 8 < 16 := by omega
    by_cases h : k < 8
    · simp [h, hk]
    · have h0 : b0.getLsbD k = false := BitVec.getLsbD_of_ge _ _ (by omega)
      have h1 : b1.getLsbD k = false := BitVec.getLsbD_of_ge _ _ (by omega)
      simp [h, hk, this, h0, h1]

/-- Reading back the bytes of a parcel gives it, in either byte order. -/
@[simp] theorem combineBytes_bytesOfParcel (o : ByteOrder) (p : Parcel) :
    combineBytes 16 o (bytesOfParcel o p) = p := by
  cases o <;>
  · simp only [bytesOfParcel, combineBytes_two]
    apply BitVec.eq_of_getLsbD_eq
    intro k hk
    simp only [cat, BitVec.getLsbD_setWidth, BitVec.getLsbD_append, BitVec.getLsbD_extractLsb']
    by_cases h : k < 8
    · simp [h, hk]
    · have h8 : k - 8 < 8 := by omega
      have hk8 : 8 + (k - 8) = k := by omega
      simp [h, hk, h8, hk8]

@[simp] theorem length_bytesOfParcel (o : ByteOrder) (p : Parcel) : (bytesOfParcel o p).length = 2 := by
  cases o <;> rfl

/-! ### The contract's reads -/

section advance
variable (src : ByteSource) (a n : Nat)

@[simp] theorem ByteSource.advance_bytes : (src.advance a n).bytes = src.bytes := rfl
@[simp] theorem ByteSource.advance_terminator : (src.advance a n).terminator = src.terminator := rfl
@[simp] theorem ByteSource.advance_silentFrom : (src.advance a n).silentFrom = src.silentFrom := rfl
@[simp] theorem ByteSource.advance_cursor : (src.advance a n).cursor = a + n := rfl

end advance

/-- What one read of the contract can do (R60, R68): it is answered as the read at the cursor's offset is, and the source is
past the bytes of a value and unchanged after a failure. -/
theorem ByteSource.readNext_cases {src src' : ByteSource} {w : Nat} {o : ByteOrder} {n : Nat}
    {r : SourceAnswer (BitVec w)} (h : src.readNext w o n = some (r, src')) :
    src.readValue w o src.cursor n = some r ∧
      ((∃ v, r = .ok v ∧ src' = src.advance src.cursor n) ∨ ((∀ v, r ≠ .ok v) ∧ src' = src)) := by
  unfold ByteSource.readNext at h
  split at h
  · cases h
  all_goals
    rename_i hv
    simp only [Option.some.injEq, Prod.mk.injEq] at h
    obtain ⟨rfl, rfl⟩ := h
    exact ⟨hv, by simp⟩

/-- The answer of a contract read is that of the read at the cursor's offset. -/
theorem ByteSource.readNext_answer (src : ByteSource) (w : Nat) (o : ByteOrder) (n : Nat) :
    (src.readNext w o n).map (fun r => r.1) = src.readValue w o src.cursor n := by
  unfold ByteSource.readNext
  split <;> simp [*]

/-- A parcel read depends only on the stream, its terminator and where it falls silent. -/
theorem ByteSource.readParcel_congr {a b : ByteSource} (h1 : a.bytes = b.bytes) (h2 : a.terminator = b.terminator)
    (h3 : a.silentFrom = b.silentFrom) (o : ByteOrder) (k : Nat) : a.readParcel o k = b.readParcel o k := by
  cases a; cases b
  simp only at h1 h2 h3
  subst h1 h2 h3
  rfl

/-- A parcel read that was answered with a parcel found both its bytes in the stream. -/
theorem ByteSource.readParcel_ok_bound {src : ByteSource} (hw : Memory.wf src.bytes = true) {o : ByteOrder} {a : Nat}
    {p : Parcel} (h : src.readParcel o a = some (.ok p)) : a + 2 ≤ src.bytes.length := by
  by_contra hc
  obtain ⟨xs, hx⟩ : ∃ xs, src.bytes = Memory.ofBytes xs := ⟨_, Memory.eq_ofBytes_of_wf hw⟩
  rw [hx, Memory.length_ofBytes] at hc
  have hn := Memory.bytesFrom_ofBytes_short xs 2 a (by omega) (by omega)
  simp only [ByteSource.readParcel, ByteSource.readValue, ByteSource.memRead, hx, hn] at h
  cases hs : src.silentAt a <;> cases ht : src.terminator <;> simp [hs, ht] at h

/-- A parcel read that was answered with no byte left is at or past the stream's end. -/
theorem ByteSource.readParcel_eof_zero {src : ByteSource} (hw : Memory.wf src.bytes = true) {o : ByteOrder} {a : Nat}
    (h : src.readParcel o a = some (.eof 0)) : src.bytes.length ≤ a := by
  by_contra hc
  obtain ⟨xs, hx⟩ : ∃ xs, src.bytes = Memory.ofBytes xs := ⟨_, Memory.eq_ofBytes_of_wf hw⟩
  rw [hx, Memory.length_ofBytes] at hc
  have ha : Memory.available (Memory.ofBytes xs) a 2 ≠ 0 := by rw [Memory.available_ofBytes]; omega
  simp only [ByteSource.readParcel, ByteSource.readValue, ByteSource.memRead, hx] at h
  cases hs : src.silentAt a <;> cases hb : Memory.bytesFrom (Memory.ofBytes xs) a 2 <;>
    cases ht : src.terminator <;> simp [hs, hb, ht] at h
  exact ha h

end Sys2Proof.Machine
end

