-- ==== Sys2Proof/Laws/State.lean ====
section
/-! SUPPORT. One lemma per field of the state for each operation that updates it. -/

namespace Sys2Proof.Machine

/-! `noteRead` -/

section noteRead
variable (s : State) (a : Nat) (r : ReadAnswer)

@[simp] theorem State.noteRead_params : (s.noteRead a r).params = s.params := by cases r <;> rfl
@[simp] theorem State.noteRead_ptr : (s.noteRead a r).ptr = s.ptr := by cases r <;> rfl
@[simp] theorem State.noteRead_status : (s.noteRead a r).status = s.status := by cases r <;> rfl
@[simp] theorem State.noteRead_events : (s.noteRead a r).events = s.events := by cases r <;> rfl
@[simp] theorem State.noteRead_outcome : (s.noteRead a r).outcome = s.outcome := by cases r <;> rfl
@[simp] theorem State.noteRead_reads : (s.noteRead a r).reads = s.reads ++ [⟨a, r⟩] := by cases r <;> rfl
@[simp] theorem State.noteRead_bytes : (s.noteRead a r).source.bytes = s.source.bytes := by cases r <;> rfl
@[simp] theorem State.noteRead_terminator : (s.noteRead a r).source.terminator = s.source.terminator := by
  cases r <;> rfl
@[simp] theorem State.noteRead_silentFrom : (s.noteRead a r).source.silentFrom = s.source.silentFrom := by
  cases r <;> rfl
@[simp] theorem State.noteRead_buffer_ok (p : Parcel) : (s.noteRead a (.ok p)).buffer = s.buffer ++ [p] := rfl
@[simp] theorem State.noteRead_buffer_eof (k : Nat) : (s.noteRead a (.eof k)).buffer = s.buffer := rfl
@[simp] theorem State.noteRead_buffer_ioError : (s.noteRead a .ioError).buffer = s.buffer := rfl
@[simp] theorem State.noteRead_source_eof (k : Nat) : (s.noteRead a (.eof k)).source = s.source := rfl
@[simp] theorem State.noteRead_source_ioError : (s.noteRead a .ioError).source = s.source := rfl
@[simp] theorem State.noteRead_cursor_ok (p : Parcel) : (s.noteRead a (.ok p)).source.cursor = a + 2 := rfl

/-- A read changes nothing a later read looks at. -/
@[simp] theorem State.noteRead_answerAt (b : Nat) : (s.noteRead a r).answerAt b = s.answerAt b := by
  cases r <;> rfl

end noteRead

/-! `deliver` -/

section deliver
variable (s : State) (c : Category) (n : Nat) (d : Option Decoded)

@[simp] theorem State.deliver_params : (s.deliver c n d).params = s.params := rfl
@[simp] theorem State.deliver_source : (s.deliver c n d).source = s.source := rfl
@[simp] theorem State.deliver_ptr : (s.deliver c n d).ptr = s.ptr + 2 * n := rfl
@[simp] theorem State.deliver_status : (s.deliver c n d).status = s.status := rfl
@[simp] theorem State.deliver_buffer : (s.deliver c n d).buffer = [] := rfl
@[simp] theorem State.deliver_reads : (s.deliver c n d).reads = s.reads := rfl
@[simp] theorem State.deliver_events : (s.deliver c n d).events = s.events ++ [s.eventOf c n d] := rfl
@[simp] theorem State.deliver_outcome : (s.deliver c n d).outcome = s.outcome := rfl

@[simp] theorem State.eventOf_offset : (s.eventOf c n d).offset = reportOffset s.params.ptrWidth s.ptr := rfl
@[simp] theorem State.eventOf_category : (s.eventOf c n d).category = c := rfl
@[simp] theorem State.eventOf_length : (s.eventOf c n d).length = 2 * n := rfl
@[simp] theorem State.eventOf_parcels : (s.eventOf c n d).parcels = s.buffer := rfl
@[simp] theorem State.eventOf_raw : (s.eventOf c n d).raw = rawOf s.buffer := rfl
@[simp] theorem State.eventOf_decoded : (s.eventOf c n d).decoded = d := rfl

end deliver

/-! `finish` -/

section finish
variable (s : State)

@[simp] theorem State.finish_params : s.finish.params = s.params := rfl
@[simp] theorem State.finish_source : s.finish.source = s.source := rfl
@[simp] theorem State.finish_ptr : s.finish.ptr = s.ptr := rfl
@[simp] theorem State.finish_status : s.finish.status = .done s.ptr := rfl
@[simp] theorem State.finish_buffer : s.finish.buffer = [] := rfl
@[simp] theorem State.finish_reads : s.finish.reads = s.reads := rfl
@[simp] theorem State.finish_events : s.finish.events = s.events := rfl
@[simp] theorem State.finish_outcome : s.finish.outcome = some (.done s.ptr) := rfl

end finish

/-! `abort` and `reject` -/

section abort
variable (s : State) (k : ErrorKind) (t : Option DiagTuple)

@[simp] theorem State.abort_params : (s.abort k t).params = s.params := rfl
@[simp] theorem State.abort_source : (s.abort k t).source = s.source := rfl
@[simp] theorem State.abort_ptr : (s.abort k t).ptr = s.ptr := rfl
@[simp] theorem State.abort_status : (s.abort k t).status = .aborted (s.errorRecord k t) := rfl
@[simp] theorem State.abort_buffer : (s.abort k t).buffer = [] := rfl
@[simp] theorem State.abort_reads : (s.abort k t).reads = s.reads := rfl
@[simp] theorem State.abort_events : (s.abort k t).events = s.events := rfl
@[simp] theorem State.abort_outcome : (s.abort k t).outcome = some (.error (s.errorRecord k t)) := rfl

/-- A rejected decode is an abort. -/
theorem State.reject_eq_abort (e : DecodeError) : ∃ k t, s.reject e = s.abort k t := by
  cases e <;> exact ⟨_, _, rfl⟩

end abort

/-! `placeWord` -/

section placeWord
variable (s : State) (nbits w : Nat)

@[simp] theorem State.placeWord_params : (s.placeWord nbits w).params = s.params := rfl
@[simp] theorem State.placeWord_ptr : (s.placeWord nbits w).ptr = s.ptr := rfl
@[simp] theorem State.placeWord_status : (s.placeWord nbits w).status = .running := rfl
@[simp] theorem State.placeWord_events : (s.placeWord nbits w).events = s.events := rfl
@[simp] theorem State.placeWord_outcome : (s.placeWord nbits w).outcome = s.outcome := rfl
@[simp] theorem State.placeWord_silentFrom : (s.placeWord nbits w).source.silentFrom = none := rfl
@[simp] theorem State.placeWord_bytes : (s.placeWord nbits w).source.bytes =
    Memory.place s.source.bytes s.ptr (tableBytes s.params.byteOrder nbits w) := rfl

end placeWord

end Sys2Proof.Machine
end

