-- ==== Sys2Proof/Laws/Fetch.lean ====
section
/-! SUPPORT. What the reads of one step can do (spec 10_state.md rule R41), said once: `fetch_cases`. -/

namespace Sys2Proof.Machine

open Sys2Proof.Safety

/-- The state after reads from offset `a` on were answered with `ps`. -/
def noteReads (a : Nat) : List Parcel → State → State
  | [], s => s
  | p :: ps, s => noteReads (a + 2) ps (s.noteRead a (.ok p))

/-- `noteReads`, field by field. -/
theorem noteReads_eq (ps : List Parcel) : ∀ (a : Nat) (s : State),
    noteReads a ps s =
      { s with
        buffer := s.buffer ++ ps
        reads := s.reads ++ readRecords a ps
        source := match ps with
          | [] => s.source
          | _ :: _ => { s.source with cursor := a + 2 * ps.length } } := by
  induction ps with
  | nil => intro a s; simp [noteReads, readRecords]
  | cons p ps ih =>
    intro a s
    rw [noteReads, ih]
    cases ps with
    | nil => simp [State.noteRead, ByteSource.advance, readRecords]
    | cons q qs =>
      simp only [State.noteRead, ByteSource.advance, readRecords, List.length_cons, List.append_assoc, List.cons_append, List.nil_append,
        State.mk.injEq, ByteSource.mk.injEq, and_true, true_and]
      omega

/-- From an empty buffer the reads of a step lead to `afterReads`. -/
theorem noteReads_eq_afterReads (s : State) (ps : List Parcel) :
    noteReads s.ptr ps { s with buffer := [] } = afterReads s ps := by
  rw [noteReads_eq]
  cases ps <;> simp [afterReads]

@[simp] theorem noteReads_answerAt (ps : List Parcel) : ∀ (a : Nat) (s : State) (b : Nat),
    (noteReads a ps s).answerAt b = s.answerAt b := by
  induction ps with
  | nil => intro a s b; rfl
  | cons p ps ih => intro a s b; rw [noteReads, ih, State.noteRead_answerAt]

/-- Answers depend on the source and the byte order alone. -/
theorem answers_congr {s t : State} (h : ∀ a, s.answerAt a = t.answerAt a) (ps : List Parcel) :
    ∀ a, Answers s a ps ↔ Answers t a ps := by
  induction ps with
  | nil => intro a; rfl
  | cons p ps ih => intro a; simp only [Answers, h, ih]

/-- How a run of `n` further reads from `a` ends: with all of them answered, or at the first that is not. -/
theorem fetchRest_cases (n : Nat) : ∀ (a : Nat) (s : State),
    (∃ ps, ps.length = n ∧ Answers s a ps ∧ fetchRest n a s = .complete (noteReads a ps s)) ∨
    (∃ ps k, ps.length < n ∧ Answers s a ps ∧ s.answerAt (a + 2 * ps.length) = some (.eof k) ∧
      fetchRest n a s = .failed .truncatedInstruction ((noteReads a ps s).noteRead (a + 2 * ps.length) (.eof k))) ∨
    (∃ ps, ps.length < n ∧ Answers s a ps ∧ s.answerAt (a + 2 * ps.length) = some .ioError ∧
      fetchRest n a s = .failed .ioFailure ((noteReads a ps s).noteRead (a + 2 * ps.length) .ioError)) ∨
    (∃ ps, ps.length < n ∧ Answers s a ps ∧ s.answerAt (a + 2 * ps.length) = none ∧
      fetchRest n a s = .unanswered (a + 2 * ps.length)) := by
  induction n with
  | zero => intro a s; exact .inl ⟨[], rfl, trivial, rfl⟩
  | succ n ih =>
    intro a s
    have e : ∀ (p : Parcel) (ps : List Parcel), a + 2 * (p :: ps).length = a + 2 + 2 * ps.length := by
      intro p ps; simp only [List.length_cons]; omega
    have an : ∀ (p : Parcel) ps b, Answers (s.noteRead a (.ok p)) b ps ↔ Answers s b ps :=
      fun p ps b => answers_congr (fun _ => State.noteRead_answerAt _ _ _ _) ps b
    cases h : s.answerAt a with
    | none => exact .inr (.inr (.inr ⟨[], by simp, trivial, h, by simp [fetchRest, h]⟩))
    | some r =>
      cases r with
      | ioError => exact .inr (.inr (.inl ⟨[], by simp, trivial, h, by simp [fetchRest, h, noteReads]⟩))
      | eof k => exact .inr (.inl ⟨[], k, by simp, trivial, h, by simp [fetchRest, h, noteReads]⟩)
      | ok p =>
        have hf : fetchRest (n + 1) a s = fetchRest n (a + 2) (s.noteRead a (.ok p)) := by simp [fetchRest, h]
        rw [hf]
        rcases ih (a + 2) (s.noteRead a (.ok p)) with ⟨ps, hl, ha, hr⟩ | ⟨ps, k, hl, ha, hb, hr⟩ |
          ⟨ps, hl, ha, hb, hr⟩ | ⟨ps, hl, ha, hb, hr⟩
        · exact .inl ⟨p :: ps, by simp [hl], ⟨h, (an p ps _).1 ha⟩, hr⟩
        · rw [State.noteRead_answerAt] at hb
          exact .inr (.inl ⟨p :: ps, k, by simp [hl], ⟨h, (an p ps _).1 ha⟩, by rw [e]; exact hb,
            by rw [e]; exact hr⟩)
        · rw [State.noteRead_answerAt] at hb
          exact .inr (.inr (.inl ⟨p :: ps, by simp [hl], ⟨h, (an p ps _).1 ha⟩, by rw [e]; exact hb,
            by rw [e]; exact hr⟩))
        · rw [State.noteRead_answerAt] at hb
          exact .inr (.inr (.inr ⟨p :: ps, by simp [hl], ⟨h, (an p ps _).1 ha⟩, by rw [e]; exact hb,
            by rw [e]; exact hr⟩))

/-- The class of a first parcel has at least one parcel. -/
theorem classify_pos (p0 : Parcel) : 0 < (classify p0).2 := by
  unfold classify
  repeat' split
  all_goals simp

/-- The answers that the two lists share are the same: answered reads determine their parcels. -/
theorem answers_prefix {s : State} (ps : List Parcel) : ∀ (qs : List Parcel) (a : Nat),
    Answers s a ps → Answers s a qs → ps.length ≤ qs.length → ps = qs.take ps.length := by
  induction ps with
  | nil => intro qs a _ _ _; simp
  | cons p ps ih =>
    intro qs a hp hq hl
    cases qs with
    | nil => simp at hl
    | cons q qs =>
      obtain ⟨h1, h2⟩ := hp
      obtain ⟨h3, h4⟩ := hq
      rw [h1] at h3
      obtain rfl : p = q := by simpa using h3
      have := ih qs (a + 2) h2 h4 (by simpa using hl)
      simp only [List.length_cons, List.take_succ_cons, List.cons.injEq, true_and]
      exact this

/-- An answered read inside a list of answers. -/
theorem answers_get {s : State} (ps : List Parcel) : ∀ (a k : Nat) (h : k < ps.length), Answers s a ps →
    s.answerAt (a + 2 * k) = some (.ok ps[k]) := by
  induction ps with
  | nil => intro a k h; simp at h
  | cons p ps ih =>
    intro a k h ha
    cases k with
    | zero => exact ha.1
    | succ k =>
      have := ih (a + 2) k (by simpa using h) ha.2
      have e : a + 2 * (k + 1) = a + 2 + 2 * k := by omega
      simpa [e] using this

/-- What the reads of one step do, in a running state. -/
theorem fetch_cases (s : State) (hr : s.status = .running) :
    (∃ ps, Presents s ps ∧ fetch s = .complete (afterReads s ps)) ∨
    (s.answerAt s.ptr = some (.eof 0) ∧
      fetch s = .endOfStream (({ s with buffer := [] } : State).noteRead s.ptr (.eof 0))) ∨
    (∃ ps k, Begins s ps ∧ (ps = [] → k ≠ 0) ∧ s.answerAt (s.ptr + 2 * ps.length) = some (.eof k) ∧
      fetch s = .failed .truncatedInstruction ((afterReads s ps).noteRead (s.ptr + 2 * ps.length) (.eof k))) ∨
    (∃ ps, Begins s ps ∧ s.answerAt (s.ptr + 2 * ps.length) = some .ioError ∧
      fetch s = .failed .ioFailure ((afterReads s ps).noteRead (s.ptr + 2 * ps.length) .ioError)) ∨
    (∃ ps, Begins s ps ∧ s.answerAt (s.ptr + 2 * ps.length) = none ∧
      fetch s = .unanswered (s.ptr + 2 * ps.length)) := by
  have hb : ∀ a, ({ s with buffer := [] } : State).answerAt a = s.answerAt a := fun _ => rfl
  have hnil : Begins s [] := ⟨hr, trivial, fun _ _ h => by simp at h⟩
  have har : afterReads s [] = { s with buffer := [] } := by simp [afterReads, readRecords]
  cases h : s.answerAt s.ptr with
  | none => exact .inr (.inr (.inr (.inr ⟨[], hnil, h, by simp [fetch, hb, h]⟩)))
  | some r =>
    cases r with
    | ioError => exact .inr (.inr (.inr (.inl ⟨[], hnil, h, by simp [fetch, hb, h, har]⟩)))
    | eof k =>
      cases k with
      | zero => exact .inr (.inl ⟨rfl, by simp [fetch, hb, h]⟩)
      | succ k => exact .inr (.inr (.inl ⟨[], k + 1, hnil, by simp, h, by simp [fetch, hb, h, har]⟩))
    | ok p0 =>
      have hf : fetch s = fetchRest ((classify p0).2 - 1) (s.ptr + 2)
          (({ s with buffer := [] } : State).noteRead s.ptr (.ok p0)) := by simp [fetch, hb, h]
      have hn : ∀ ps, noteReads (s.ptr + 2) ps (({ s with buffer := [] } : State).noteRead s.ptr (.ok p0)) =
          afterReads s (p0 :: ps) := fun ps => by rw [← noteReads_eq_afterReads]; rfl
      have an : ∀ ps, Answers (({ s with buffer := [] } : State).noteRead s.ptr (.ok p0)) (s.ptr + 2) ps ↔
          Answers s (s.ptr + 2) ps := fun ps => answers_congr (fun _ => by rw [State.noteRead_answerAt]; rfl) ps _
      have e : ∀ ps : List Parcel, s.ptr + 2 * (p0 :: ps).length = s.ptr + 2 + 2 * ps.length := by
        intro ps; simp only [List.length_cons]; omega
      have hpos := classify_pos p0
      have hbeg : ∀ ps, ps.length < (classify p0).2 - 1 → Answers s (s.ptr + 2) ps → Begins s (p0 :: ps) := by
        intro ps hl ha
        refine ⟨hr, ⟨h, ha⟩, ?_⟩
        intro q rest hq
        simp only [List.cons.injEq] at hq
        obtain ⟨rfl, rfl⟩ := hq
        simp only [List.length_cons]; omega
      rw [hf]
      rcases fetchRest_cases ((classify p0).2 - 1) (s.ptr + 2)
          (({ s with buffer := [] } : State).noteRead s.ptr (.ok p0))
        with ⟨ps, hl, ha, hc⟩ | ⟨ps, k, hl, ha, hk, hc⟩ | ⟨ps, hl, ha, hk, hc⟩ | ⟨ps, hl, ha, hk, hc⟩
      · rw [an] at ha
        refine .inl ⟨p0 :: ps, ⟨hr, ⟨h, ha⟩, p0, ps, rfl, ?_⟩, by rw [hc, hn]⟩
        simp only [List.length_cons]; omega
      · rw [an] at ha
        rw [State.noteRead_answerAt, hb] at hk
        exact .inr (.inr (.inl ⟨p0 :: ps, k, hbeg ps hl ha, by simp, by rw [e]; exact hk, by rw [hc, hn, e]⟩))
      · rw [an] at ha
        rw [State.noteRead_answerAt, hb] at hk
        exact .inr (.inr (.inr (.inl ⟨p0 :: ps, hbeg ps hl ha, by rw [e]; exact hk, by rw [hc, hn, e]⟩)))
      · rw [an] at ha
        rw [State.noteRead_answerAt, hb] at hk
        exact .inr (.inr (.inr (.inr ⟨p0 :: ps, hbeg ps hl ha, by rw [e]; exact hk, by rw [hc, e]⟩)))

end Sys2Proof.Machine
end

