-- ==== Sys2Proof/Laws/PerInstr.lean ====
section
/-! SUPPORT. Facts about every instruction, one lemma per constructor. `Classified`: the first parcel of a well-formed
instruction's encoding announces the encoding's number of parcels (spec 30_encoding.md rule R100), so the framing
that the classifier gives a stream of encodings is the stream's own. -/

namespace Sys2Proof.Laws

/-- The encoding of a well-formed instruction is as long as its first parcel's class says. -/
def Classified.Statement (i : Instr) : Prop :=
  i.wellFormed = true → ∃ p0 rest, encode i = p0 :: rest ∧ (encode i).length = (classify p0).2

/-- A `Word32` encoding. -/
theorem classified_halves (i : Word) (h1 : (opcode i).extractLsb' 0 2 = 0b11#2)
    (h2 : (opcode i).extractLsb' 2 3 ≠ 0b111#3) :
    ∃ p0 rest, Sys2Proof.halves i = p0 :: rest ∧ (Sys2Proof.halves i).length = (classify p0).2 :=
  ⟨_, _, rfl, by simp [Sys2Proof.halves, classify_low_of_opcode i h1 h2]⟩

/-- A `Compressed16` encoding. -/
theorem classified_parcel (c : Parcel) (h : quadrant c ≠ 0b11#2) :
    ∃ p0 rest, [c] = p0 :: rest ∧ [c].length = (classify p0).2 :=
  ⟨c, [], rfl, by simp only [quadrant] at h; simp [classify, h]⟩

theorem Classified.lui (rd : Reg) (imm : BitVec 32) : Classified.Statement (.lui rd imm) := fun _ =>
  classified_halves _ (by simp) (by simp)

theorem Classified.auipc (rd : Reg) (imm : BitVec 32) : Classified.Statement (.auipc rd imm) := fun _ =>
  classified_halves _ (by simp) (by simp)

theorem Classified.jal (rd : Reg) (imm : BitVec 21) : Classified.Statement (.jal rd imm) := fun _ =>
  classified_halves _ (by simp) (by simp)

theorem Classified.jalr (rd rs1 : Reg) (imm : BitVec 12) : Classified.Statement (.jalr rd rs1 imm) := fun _ =>
  classified_halves _ (by simp) (by simp)

theorem Classified.lb (rd rs1 : Reg) (imm : BitVec 12) : Classified.Statement (.lb rd rs1 imm) := fun _ =>
  classified_halves _ (by simp) (by simp)

theorem Classified.lh (rd rs1 : Reg) (imm : BitVec 12) : Classified.Statement (.lh rd rs1 imm) := fun _ =>
  classified_halves _ (by simp) (by simp)

theorem Classified.lw (rd rs1 : Reg) (imm : BitVec 12) : Classified.Statement (.lw rd rs1 imm) := fun _ =>
  classified_halves _ (by simp) (by simp)

theorem Classified.lbu (rd rs1 : Reg) (imm : BitVec 12) : Classified.Statement (.lbu rd rs1 imm) := fun _ =>
  classified_halves _ (by simp) (by simp)

theorem Classified.lhu (rd rs1 : Reg) (imm : BitVec 12) : Classified.Statement (.lhu rd rs1 imm) := fun _ =>
  classified_halves _ (by simp) (by simp)

theorem Classified.sb (rs1 rs2 : Reg) (imm : BitVec 12) : Classified.Statement (.sb rs1 rs2 imm) := fun _ =>
  classified_halves _ (by simp) (by simp)

theorem Classified.sh (rs1 rs2 : Reg) (imm : BitVec 12) : Classified.Statement (.sh rs1 rs2 imm) := fun _ =>
  classified_halves _ (by simp) (by simp)

theorem Classified.sw (rs1 rs2 : Reg) (imm : BitVec 12) : Classified.Statement (.sw rs1 rs2 imm) := fun _ =>
  classified_halves _ (by simp) (by simp)

theorem Classified.beq (rs1 rs2 : Reg) (imm : BitVec 13) : Classified.Statement (.beq rs1 rs2 imm) := fun _ =>
  classified_halves _ (by simp) (by simp)

theorem Classified.bne (rs1 rs2 : Reg) (imm : BitVec 13) : Classified.Statement (.bne rs1 rs2 imm) := fun _ =>
  classified_halves _ (by simp) (by simp)

theorem Classified.blt (rs1 rs2 : Reg) (imm : BitVec 13) : Classified.Statement (.blt rs1 rs2 imm) := fun _ =>
  classified_halves _ (by simp) (by simp)

theorem Classified.bge (rs1 rs2 : Reg) (imm : BitVec 13) : Classified.Statement (.bge rs1 rs2 imm) := fun _ =>
  classified_halves _ (by simp) (by simp)

theorem Classified.bltu (rs1 rs2 : Reg) (imm : BitVec 13) : Classified.Statement (.bltu rs1 rs2 imm) := fun _ =>
  classified_halves _ (by simp) (by simp)

theorem Classified.bgeu (rs1 rs2 : Reg) (imm : BitVec 13) : Classified.Statement (.bgeu rs1 rs2 imm) := fun _ =>
  classified_halves _ (by simp) (by simp)

theorem Classified.addi (rd rs1 : Reg) (imm : BitVec 12) : Classified.Statement (.addi rd rs1 imm) := fun _ =>
  classified_halves _ (by simp) (by simp)

theorem Classified.slti (rd rs1 : Reg) (imm : BitVec 12) : Classified.Statement (.slti rd rs1 imm) := fun _ =>
  classified_halves _ (by simp) (by simp)

theorem Classified.sltiu (rd rs1 : Reg) (imm : BitVec 12) : Classified.Statement (.sltiu rd rs1 imm) := fun _ =>
  classified_halves _ (by simp) (by simp)

theorem Classified.xori (rd rs1 : Reg) (imm : BitVec 12) : Classified.Statement (.xori rd rs1 imm) := fun _ =>
  classified_halves _ (by simp) (by simp)

theorem Classified.ori (rd rs1 : Reg) (imm : BitVec 12) : Classified.Statement (.ori rd rs1 imm) := fun _ =>
  classified_halves _ (by simp) (by simp)

theorem Classified.andi (rd rs1 : Reg) (imm : BitVec 12) : Classified.Statement (.andi rd rs1 imm) := fun _ =>
  classified_halves _ (by simp) (by simp)

theorem Classified.slli (rd rs1 : Reg) (shamt : BitVec 5) : Classified.Statement (.slli rd rs1 shamt) := fun _ =>
  classified_halves _ (by simp) (by simp)

theorem Classified.srli (rd rs1 : Reg) (shamt : BitVec 5) : Classified.Statement (.srli rd rs1 shamt) := fun _ =>
  classified_halves _ (by simp) (by simp)

theorem Classified.srai (rd rs1 : Reg) (shamt : BitVec 5) : Classified.Statement (.srai rd rs1 shamt) := fun _ =>
  classified_halves _ (by simp) (by simp)

theorem Classified.add (rd rs1 rs2 : Reg) : Classified.Statement (.add rd rs1 rs2) := fun _ =>
  classified_halves _ (by simp) (by simp)

theorem Classified.sub (rd rs1 rs2 : Reg) : Classified.Statement (.sub rd rs1 rs2) := fun _ =>
  classified_halves _ (by simp) (by simp)

theorem Classified.sll (rd rs1 rs2 : Reg) : Classified.Statement (.sll rd rs1 rs2) := fun _ =>
  classified_halves _ (by simp) (by simp)

theorem Classified.slt (rd rs1 rs2 : Reg) : Classified.Statement (.slt rd rs1 rs2) := fun _ =>
  classified_halves _ (by simp) (by simp)

theorem Classified.sltu (rd rs1 rs2 : Reg) : Classified.Statement (.sltu rd rs1 rs2) := fun _ =>
  classified_halves _ (by simp) (by simp)

theorem Classified.xor (rd rs1 rs2 : Reg) : Classified.Statement (.xor rd rs1 rs2) := fun _ =>
  classified_halves _ (by simp) (by simp)

theorem Classified.srl (rd rs1 rs2 : Reg) : Classified.Statement (.srl rd rs1 rs2) := fun _ =>
  classified_halves _ (by simp) (by simp)

theorem Classified.sra (rd rs1 rs2 : Reg) : Classified.Statement (.sra rd rs1 rs2) := fun _ =>
  classified_halves _ (by simp) (by simp)

theorem Classified.or (rd rs1 rs2 : Reg) : Classified.Statement (.or rd rs1 rs2) := fun _ =>
  classified_halves _ (by simp) (by simp)

theorem Classified.and (rd rs1 rs2 : Reg) : Classified.Statement (.and rd rs1 rs2) := fun _ =>
  classified_halves _ (by simp) (by simp)

theorem Classified.csrrw (rd rs1 : Reg) (csr : BitVec 12) : Classified.Statement (.csrrw rd rs1 csr) := fun _ =>
  classified_halves _ (by simp) (by simp)

theorem Classified.csrrs (rd rs1 : Reg) (csr : BitVec 12) : Classified.Statement (.csrrs rd rs1 csr) := fun _ =>
  classified_halves _ (by simp) (by simp)

theorem Classified.csrrc (rd rs1 : Reg) (csr : BitVec 12) : Classified.Statement (.csrrc rd rs1 csr) := fun _ =>
  classified_halves _ (by simp) (by simp)

theorem Classified.csrrwi (rd rs1 : Reg) (csr : BitVec 12) : Classified.Statement (.csrrwi rd rs1 csr) := fun _ =>
  classified_halves _ (by simp) (by simp)

theorem Classified.csrrsi (rd rs1 : Reg) (csr : BitVec 12) : Classified.Statement (.csrrsi rd rs1 csr) := fun _ =>
  classified_halves _ (by simp) (by simp)

theorem Classified.csrrci (rd rs1 : Reg) (csr : BitVec 12) : Classified.Statement (.csrrci rd rs1 csr) := fun _ =>
  classified_halves _ (by simp) (by simp)

theorem Classified.ecall : Classified.Statement .ecall := fun _ => classified_halves _ (by simp) (by simp)

theorem Classified.ebreak : Classified.Statement .ebreak := fun _ => classified_halves _ (by simp) (by simp)

theorem Classified.uret : Classified.Statement .uret := fun _ => classified_halves _ (by simp) (by simp)

theorem Classified.sret : Classified.Statement .sret := fun _ => classified_halves _ (by simp) (by simp)

theorem Classified.mret : Classified.Statement .mret := fun _ => classified_halves _ (by simp) (by simp)

theorem Classified.wfi : Classified.Statement .wfi := fun _ => classified_halves _ (by simp) (by simp)

theorem Classified.fence (flags : BitVec 8) : Classified.Statement (.fence flags) := fun _ =>
  classified_halves _ (by simp) (by simp)

theorem Classified.fenceI : Classified.Statement .fenceI := fun _ => classified_halves _ (by simp) (by simp)

theorem Classified.cAddi4spn (rd : CReg) (imm : BitVec 10) : Classified.Statement (.cAddi4spn rd imm) := fun _ =>
  classified_parcel _ (by simp)

theorem Classified.cFld (rd rs1 : CReg) (imm : BitVec 8) : Classified.Statement (.cFld rd rs1 imm) := fun _ =>
  classified_parcel _ (by simp [parcelClDouble])

theorem Classified.cLw (rd rs1 : CReg) (imm : BitVec 7) : Classified.Statement (.cLw rd rs1 imm) := fun _ =>
  classified_parcel _ (by simp [parcelClWord])

theorem Classified.cFlw (rd rs1 : CReg) (imm : BitVec 7) : Classified.Statement (.cFlw rd rs1 imm) := fun _ =>
  classified_parcel _ (by simp [parcelClWord])

theorem Classified.cFsd (rs1 rs2 : CReg) (imm : BitVec 8) : Classified.Statement (.cFsd rs1 rs2 imm) := fun _ =>
  classified_parcel _ (by simp [parcelClDouble])

theorem Classified.cSw (rs1 rs2 : CReg) (imm : BitVec 7) : Classified.Statement (.cSw rs1 rs2 imm) := fun _ =>
  classified_parcel _ (by simp [parcelClWord])

theorem Classified.cFsw (rs1 rs2 : CReg) (imm : BitVec 7) : Classified.Statement (.cFsw rs1 rs2 imm) := fun _ =>
  classified_parcel _ (by simp [parcelClWord])

theorem Classified.cAddi (rd : Reg) (imm : BitVec 6) : Classified.Statement (.cAddi rd imm) := fun _ =>
  classified_parcel _ (by simp [parcelCi6])

theorem Classified.cJal (imm : BitVec 12) : Classified.Statement (.cJal imm) := fun _ =>
  classified_parcel _ (by simp)

theorem Classified.cLi (rd : Reg) (imm : BitVec 6) : Classified.Statement (.cLi rd imm) := fun _ =>
  classified_parcel _ (by simp [parcelCi6])

theorem Classified.cAddi16sp (imm : BitVec 10) : Classified.Statement (.cAddi16sp imm) := fun _ =>
  classified_parcel _ (by simp)

theorem Classified.cLui (rd : Reg) (imm : BitVec 18) : Classified.Statement (.cLui rd imm) := fun _ =>
  classified_parcel _ (by simp)

theorem Classified.cAndi (rd : CReg) (imm : BitVec 6) : Classified.Statement (.cAndi rd imm) := fun _ =>
  classified_parcel _ (by simp)

theorem Classified.cSub (rd rs2 : CReg) : Classified.Statement (.cSub rd rs2) := fun _ =>
  classified_parcel _ (by simp)

theorem Classified.cXor (rd rs2 : CReg) : Classified.Statement (.cXor rd rs2) := fun _ =>
  classified_parcel _ (by simp)

theorem Classified.cOr (rd rs2 : CReg) : Classified.Statement (.cOr rd rs2) := fun _ =>
  classified_parcel _ (by simp)

theorem Classified.cAnd (rd rs2 : CReg) : Classified.Statement (.cAnd rd rs2) := fun _ =>
  classified_parcel _ (by simp)

theorem Classified.cJ (imm : BitVec 12) : Classified.Statement (.cJ imm) := fun _ =>
  classified_parcel _ (by simp)

theorem Classified.cBeqz (rs1 : CReg) (imm : BitVec 9) : Classified.Statement (.cBeqz rs1 imm) := fun _ =>
  classified_parcel _ (by simp)

theorem Classified.cBnez (rs1 : CReg) (imm : BitVec 9) : Classified.Statement (.cBnez rs1 imm) := fun _ =>
  classified_parcel _ (by simp)

theorem Classified.cSlli (rd : Reg) (shamt : BitVec 6) : Classified.Statement (.cSlli rd shamt) := fun _ =>
  classified_parcel _ (by simp [parcelCi6])

theorem Classified.cSlli64 (rd : Reg) : Classified.Statement (.cSlli64 rd) := fun _ =>
  classified_parcel _ (by simp)

theorem Classified.cFldsp (rd : Reg) (imm : BitVec 9) : Classified.Statement (.cFldsp rd imm) := fun _ =>
  classified_parcel _ (by simp)

theorem Classified.cLwsp (rd : Reg) (imm : BitVec 8) : Classified.Statement (.cLwsp rd imm) := fun _ =>
  classified_parcel _ (by simp [parcelCiWord])

theorem Classified.cFlwsp (rd : Reg) (imm : BitVec 8) : Classified.Statement (.cFlwsp rd imm) := fun _ =>
  classified_parcel _ (by simp [parcelCiWord])

theorem Classified.cJr (rs1 : Reg) : Classified.Statement (.cJr rs1) := fun _ =>
  classified_parcel _ (by simp)

theorem Classified.cMv (rd rs2 : Reg) : Classified.Statement (.cMv rd rs2) := fun _ =>
  classified_parcel _ (by simp)

theorem Classified.cEbreak : Classified.Statement .cEbreak := fun _ => classified_parcel _ (by simp)

theorem Classified.cJalr (rs1 : Reg) : Classified.Statement (.cJalr rs1) := fun _ =>
  classified_parcel _ (by simp)

theorem Classified.cAdd (rd rs2 : Reg) : Classified.Statement (.cAdd rd rs2) := fun _ =>
  classified_parcel _ (by simp)

theorem Classified.cFsdsp (rs2 : Reg) (imm : BitVec 9) : Classified.Statement (.cFsdsp rs2 imm) := fun _ =>
  classified_parcel _ (by simp)

theorem Classified.cSwsp (rs2 : Reg) (imm : BitVec 8) : Classified.Statement (.cSwsp rs2 imm) := fun _ =>
  classified_parcel _ (by simp)

theorem Classified.cFswsp (rs2 : Reg) (imm : BitVec 8) : Classified.Statement (.cFswsp rs2 imm) := fun _ =>
  classified_parcel _ (by simp)

theorem Classified.framedDoubleWord48 (parcels : List Parcel) : Classified.Statement (.framedDoubleWord48 parcels) := by
  intro h
  cases parcels with
  | nil => simp [Instr.wellFormed, framedAs] at h
  | cons p0 rest =>
    simp only [Instr.wellFormed, framedAs, isDoubleWord48, Bool.and_eq_true, beq_iff_eq] at h
    refine ⟨p0, rest, rfl, ?_⟩
    simp [encode, classify_doubleWord48 p0 h.1, h.2]

theorem Classified.framedQuadWord64 (parcels : List Parcel) : Classified.Statement (.framedQuadWord64 parcels) := by
  intro h
  cases parcels with
  | nil => simp [Instr.wellFormed, framedAs] at h
  | cons p0 rest =>
    simp only [Instr.wellFormed, framedAs, isQuadWord64, Bool.and_eq_true, beq_iff_eq] at h
    refine ⟨p0, rest, rfl, ?_⟩
    simp [encode, classify_quadWord64 p0 h.1, h.2]

theorem Classified.framedExtended (parcels : List Parcel) : Classified.Statement (.framedExtended parcels) := by
  intro h
  cases parcels with
  | nil => simp [Instr.wellFormed, framedAs] at h
  | cons p0 rest =>
    simp only [Instr.wellFormed, framedAs, isExtended, Bool.and_eq_true, beq_iff_eq, bne_iff_ne] at h
    refine ⟨p0, rest, rfl, ?_⟩
    simp [encode, classify_extended p0 h.1.1 h.1.2, h.2]

theorem Classified.framedReserved192 (parcels : List Parcel) : Classified.Statement (.framedReserved192 parcels) := by
  intro h
  cases parcels with
  | nil => simp [Instr.wellFormed, framedAs] at h
  | cons p0 rest =>
    simp only [Instr.wellFormed, framedAs, isReserved192, Bool.and_eq_true, beq_iff_eq] at h
    refine ⟨p0, rest, rfl, ?_⟩
    simp [encode, classify_reserved192 p0 h.1.1 h.1.2, h.2]

end Sys2Proof.Laws
end

