-- ==== Sys2Proof/Laws/Step.lean ====
section
/-! SUPPORT. What a step can do (spec 10_state.md rules R40 to R46), said once: `step_cases`. -/

namespace Sys2Proof.Machine

open Sys2Proof.Safety

/-- A meaning delivers one event, and nothing else. -/
theorem exec_delivers (i : Instr) (s : State) : ∃ c n d, exec i s = .next (s.deliver c n d) := by
  cases i
  case framedExtended ps => cases ps <;> exact ⟨_, _, _, rfl⟩
  all_goals exact ⟨_, _, _, rfl⟩

/-- The event state of Safety.lean is `deliver`'s. -/
theorem deliver_eq_afterEvent (s : State) (c : Category) (n : Nat) (d : Option Decoded) :
    s.deliver c n d = afterEvent s c (2 * n) d := rfl

/-- The decoder on the parcels of a whole instruction never finds a parcel missing. -/
theorem decode_whole {ps : List Parcel} (h : ∃ p0 rest, ps = p0 :: rest ∧ ps.length = (classify p0).2) :
    (∃ i, decode ps = .instr i) ∨ ∃ t, decode ps = .rejected (.malformed t) := by
  obtain ⟨p0, rest, rfl, hl⟩ := h
  have hd : decode (p0 :: rest) = decodeAs p0 (p0 :: rest) (classify p0).1 := by
    rw [decode, ← hl, List.take_length]; simp
  rw [hd]
  have hr : ∀ t (o : Option Instr), (∃ i, resolved t o = .instr i) ∨ ∃ u, resolved t o = .rejected (.malformed u) := by
    intro t o; cases o with
    | none => exact .inr ⟨t, rfl⟩
    | some i => exact .inl ⟨i, rfl⟩
  cases hc : (classify p0).1 with
  | compressed16 => exact hr _ _
  | word32 =>
    have h2 : (classify p0).2 = 2 := by
      unfold classify at hc ⊢
      repeat' split at hc <;> simp_all
    cases rest with
    | nil => simp [h2] at hl
    | cons p1 r => exact hr _ _
  | doubleWord48 => exact .inl ⟨_, rfl⟩
  | quadWord64 => exact .inl ⟨_, rfl⟩
  | extended => exact .inl ⟨_, rfl⟩
  | reserved192 => exact .inl ⟨_, rfl⟩

/-- A step that answers a next state did one of these five things. -/
theorem step_cases {s t : State} (h : step s = .next t) :
    s.status = .running ∧
    ((∃ ps i, Presents s ps ∧ decode ps = .instr i ∧ exec i (afterReads s ps) = .next t) ∨
     (∃ ps u, Presents s ps ∧ decode ps = .rejected (.malformed u) ∧
       t = afterAbort s .malformedEncoding ps [] (some u)) ∨
     (s.answerAt s.ptr = some (.eof 0) ∧ t = afterEnd s) ∨
     (∃ ps k, Begins s ps ∧ (ps = [] → k ≠ 0) ∧ s.answerAt (s.ptr + 2 * ps.length) = some (.eof k) ∧
       t = afterAbort s .truncatedInstruction ps [⟨s.ptr + 2 * ps.length, .eof k⟩] none) ∨
     (∃ ps, Begins s ps ∧ s.answerAt (s.ptr + 2 * ps.length) = some .ioError ∧
       t = afterAbort s .ioFailure ps [⟨s.ptr + 2 * ps.length, .ioError⟩] none)) := by
  have hr : s.status = .running := by
    cases hs : s.status <;> simp [step, hs] at h ⊢
  refine ⟨hr, ?_⟩
  rcases fetch_cases s hr with ⟨ps, hp, hf⟩ | ⟨hk, hf⟩ | ⟨ps, k, hb, hk0, hk, hf⟩ | ⟨ps, hb, hk, hf⟩ | ⟨ps, hb, hk, hf⟩
  · have h' : runDecoded (afterReads s ps) (decode ps) = .next t := by
      simp only [step, hr, hf] at h
      simpa [afterReads] using h
    rcases decode_whole hp.whole with ⟨i, hi⟩ | ⟨u, hu⟩
    · exact .inl ⟨ps, i, hp, hi, by simpa [hi, runDecoded] using h'⟩
    · refine .inr (.inl ⟨ps, u, hp, hu, ?_⟩)
      simp only [hu, runDecoded, Host.Outcome.next.injEq] at h'
      rw [← h']
      simp [State.reject, State.abort, State.errorRecord, afterAbort, afterReads, errorOf]
  · refine .inr (.inr (.inl ⟨hk, ?_⟩))
    simp only [step, hr, hf, Host.Outcome.next.injEq] at h
    rw [← h]
    simp [State.finish, State.noteRead, afterEnd]
  · refine .inr (.inr (.inr (.inl ⟨ps, k, hb, hk0, hk, ?_⟩)))
    simp only [step, hr, hf, Host.Outcome.next.injEq] at h
    rw [← h]
    simp [State.abort, State.errorRecord, State.noteRead, afterAbort, afterReads, errorOf]
  · refine .inr (.inr (.inr (.inr ⟨ps, hb, hk, ?_⟩)))
    simp only [step, hr, hf, Host.Outcome.next.injEq] at h
    rw [← h]
    simp [State.abort, State.errorRecord, State.noteRead, afterAbort, afterReads, errorOf]
  · simp [step, hr, hf] at h

/-- A step never answers a refusal: no instruction is without a meaning. -/
theorem step_not_refused (s : State) (r : Refusal) : step s ≠ .refused r := by
  intro h
  cases hs : s.status with
  | done p => simp [step, hs] at h
  | aborted e => simp [step, hs] at h
  | running =>
    simp only [step, hs] at h
    cases hf : fetch s with
    | unanswered a => simp [hf] at h
    | endOfStream t => simp [hf] at h
    | failed k t => simp [hf] at h
    | complete t =>
      simp only [hf] at h
      cases hd : decode t.buffer with
      | rejected e => simp [hd, runDecoded] at h
      | instr i =>
        obtain ⟨c, n, d, he⟩ := exec_delivers i t
        simp [hd, runDecoded, he] at h

end Sys2Proof.Machine
end

