-- ==== Sys2Proof/Tests/Slice0.lean ====
section
/-! SUPPORT. The model's own tests. Every word, and the result expected of it, is the spec's: the worked examples in the
family files' rules and the vectors and programs of 95_test_vectors.md. The last part holds, for every statement of
Certificates/Slice0/Obligations.lean that has hypotheses, a witness that meets them, with one input for each clause. -/

namespace Sys2Proof.Tests

open Sys2Proof.Machine Sys2Proof.Safety

/-! ### Helpers -/

/-- A 32-bit word as its parcels, low half first (R65). -/
def word (i : Word) : List Parcel := [i.extractLsb' 0 16, i.extractLsb' 16 16]

/-- A pass over `bs` in the parameters of 95_test_vectors.md. -/
def pass (bs : List Byte) (t : Terminator) : State :=
  startPass { byteOrder := .little, ptrWidth := .unbounded } bs t none

/-- The same with byte order `big`. -/
def passBig (bs : List Byte) (t : Terminator) : State :=
  startPass { byteOrder := .big, ptrWidth := .unbounded } bs t none

/-- The same pass later: at offset `a`. -/
def atOffset (s : State) (a : Nat) : State := { s with ptr := a }

def stepped (s : State) : Option State :=
  match step s with
  | .next t => some t
  | .fault _ => none
  | .refused _ => none

/-- The event one step delivers. -/
def delivered (s : State) : Option Event := (stepped s).bind fun t => t.events.getLast?

/-- The outcome one step reports. -/
def reported (s : State) : Option PassOutcome := (stepped s).bind fun t => t.outcome

/-- The tuple with which a list of parcels is malformed. -/
def malformedTuple (ps : List Parcel) : Option DiagTuple :=
  match decode ps with
  | .rejected (.malformed t) => some t
  | .rejected .noParcel => none
  | .rejected .truncated => none
  | .instr _ => none

/-! ### WellFormed refuses an ill-formed term for each of its checks -/

theorem test_illFormed_lui : (Instr.lui 1#5 0x12345001#32).wellFormed = false := by decide
theorem test_illFormed_auipc : (Instr.auipc 1#5 0x00000800#32).wellFormed = false := by decide
theorem test_illFormed_jal : (Instr.jal 1#5 1#21).wellFormed = false := by decide
theorem test_illFormed_branches :
    [Instr.beq 1#5 2#5 3#13, .bne 1#5 2#5 3#13, .blt 1#5 2#5 3#13, .bge 1#5 2#5 3#13, .bltu 1#5 2#5 3#13,
      .bgeu 1#5 2#5 3#13].map Instr.wellFormed = [false, false, false, false, false, false] := by decide
theorem test_illFormed_cAddi4spn_zero : (Instr.cAddi4spn 0#3 0#10).wellFormed = false := by decide
theorem test_illFormed_cAddi4spn_unaligned : (Instr.cAddi4spn 0#3 6#10).wellFormed = false := by decide
theorem test_illFormed_c0_words :
    [Instr.cLw 0#3 0#3 2#7, .cFlw 0#3 0#3 1#7, .cSw 0#3 0#3 2#7, .cFsw 0#3 0#3 3#7].map Instr.wellFormed =
      [false, false, false, false] := by decide
theorem test_illFormed_c0_doubles :
    [Instr.cFld 0#3 0#3 4#8, .cFsd 0#3 0#3 4#8].map Instr.wellFormed = [false, false] := by decide
theorem test_illFormed_c1_jumps : [Instr.cJal 1#12, .cJ 1#12].map Instr.wellFormed = [false, false] := by decide
theorem test_illFormed_c1_branches : [Instr.cBeqz 0#3 1#9, .cBnez 0#3 1#9].map Instr.wellFormed = [false, false] := by
  decide
theorem test_illFormed_cAddi16sp : (Instr.cAddi16sp 8#10).wellFormed = false := by decide
theorem test_illFormed_cLui_rd : (Instr.cLui 2#5 0x1000#18).wellFormed = false := by decide
theorem test_illFormed_cLui_imm : (Instr.cLui 1#5 0x0800#18).wellFormed = false := by decide
theorem test_illFormed_cSlli : (Instr.cSlli 1#5 0#6).wellFormed = false := by decide
theorem test_illFormed_c2_words :
    [Instr.cLwsp 0#5 2#8, .cFlwsp 0#5 2#8, .cSwsp 0#5 2#8, .cFswsp 0#5 2#8].map Instr.wellFormed =
      [false, false, false, false] := by decide
theorem test_illFormed_c2_doubles : [Instr.cFldsp 0#5 4#9, .cFsdsp 0#5 4#9].map Instr.wellFormed = [false, false] := by
  decide
theorem test_illFormed_c2_registers :
    [Instr.cMv 1#5 0#5, .cAdd 1#5 0#5, .cJalr 0#5].map Instr.wellFormed = [false, false, false] := by decide
theorem test_illFormed_framed_class :
    [Instr.framedDoubleWord48 [0x003f#16, 0#16, 0#16], .framedQuadWord64 [0x001f#16, 0#16, 0#16, 0#16],
      .framedExtended (0x707f#16 :: List.replicate 11 0#16),
      .framedReserved192 (0x007f#16 :: List.replicate 4 0#16)].map Instr.wellFormed =
      [false, false, false, false] := by decide
theorem test_illFormed_framed_length :
    [Instr.framedDoubleWord48 [0x001f#16, 0#16], .framedQuadWord64 [], .framedExtended [0x007f#16],
      .framedReserved192 (0x707f#16 :: List.replicate 10 0#16)].map Instr.wellFormed =
      [false, false, false, false] := by decide

/-! ### Decoding, one word of the spec's for each constructor, its fields set off as its format places them -/

theorem test_decode_lui :
    decode (word 0b00010010001101000101_00101_0110111#32) = .instr (.lui 5#5 0x12345000#32) := by decide

theorem test_decode_auipc :
    decode (word 0b11111111111111111111_01010_0010111#32) = .instr (.auipc 10#5 0xfffff000#32) := by decide

theorem test_decode_jal :
    decode (word 0b1_0000000000_1_11111111_00001_1101111#32) = .instr (.jal 1#5 (-2048#21)) := by decide

theorem test_decode_jalr :
    decode (word 0b111111111111_01010_000_01010_1100111#32) = .instr (.jalr 10#5 10#5 (-1#12)) := by decide

theorem test_decode_lb :
    decode (word 0b111111111111_00010_000_01010_0000011#32) = .instr (.lb 10#5 2#5 (-1#12)) := by decide

theorem test_decode_lh :
    decode (word 0b011111111110_00011_001_01011_0000011#32) = .instr (.lh 11#5 3#5 2046#12) := by decide

theorem test_decode_lw :
    decode (word 0b100000000000_01000_010_00101_0000011#32) = .instr (.lw 5#5 8#5 (-2048#12)) := by decide

theorem test_decode_lbu :
    decode (word 0b000000000111_01001_100_00110_0000011#32) = .instr (.lbu 6#5 9#5 7#12) := by decide

theorem test_decode_lhu :
    decode (word 0b011111111111_01010_101_00111_0000011#32) = .instr (.lhu 7#5 10#5 2047#12) := by decide

theorem test_decode_sb :
    decode (word 0b1111111_01010_00010_000_11111_0100011#32) = .instr (.sb 2#5 10#5 (-1#12)) := by decide

theorem test_decode_sh :
    decode (word 0b1000000_01011_00011_001_00000_0100011#32) = .instr (.sh 3#5 11#5 (-2048#12)) := by decide

theorem test_decode_sw :
    decode (word 0b0111111_01001_01000_010_11111_0100011#32) = .instr (.sw 8#5 9#5 2047#12) := by decide

theorem test_decode_beq :
    decode (word 0b1_111111_00000_00000_000_1110_1_1100011#32) = .instr (.beq 0#5 0#5 (-4#13)) := by decide

theorem test_decode_bne :
    decode (word 0b1_111111_00000_01010_001_1100_1_1100011#32) = .instr (.bne 10#5 0#5 (-8#13)) := by decide

theorem test_decode_blt :
    decode (word 0b0_111111_00010_00001_100_1111_1_1100011#32) = .instr (.blt 1#5 2#5 4094#13) := by decide

theorem test_decode_bge :
    decode (word 0b1_000000_00010_00001_101_0000_0_1100011#32) = .instr (.bge 1#5 2#5 (-4096#13)) := by decide

theorem test_decode_bltu :
    decode (word 0b0_000000_00100_00011_110_0001_0_1100011#32) = .instr (.bltu 3#5 4#5 2#13) := by decide

theorem test_decode_bgeu :
    decode (word 0b1_111111_00100_00011_111_1111_1_1100011#32) = .instr (.bgeu 3#5 4#5 (-2#13)) := by decide

theorem test_decode_addi :
    decode (word 0b000000000101_00000_000_00001_0010011#32) = .instr (.addi 1#5 0#5 5#12) := by decide

theorem test_decode_slti :
    decode (word 0b111111111111_00010_010_00001_0010011#32) = .instr (.slti 1#5 2#5 (-1#12)) := by decide

theorem test_decode_sltiu :
    decode (word 0b111111111111_00010_011_00001_0010011#32) = .instr (.sltiu 1#5 2#5 (-1#12)) := by decide

theorem test_decode_xori :
    decode (word 0b111111111111_01010_100_01010_0010011#32) = .instr (.xori 10#5 10#5 (-1#12)) := by decide

theorem test_decode_ori :
    decode (word 0b000011111111_01100_110_01100_0010011#32) = .instr (.ori 12#5 12#5 255#12) := by decide

theorem test_decode_andi :
    decode (word 0b000011111111_01010_111_01010_0010011#32) = .instr (.andi 10#5 10#5 255#12) := by decide

theorem test_decode_slli :
    decode (word 0b0000000_11111_00010_001_00001_0010011#32) = .instr (.slli 1#5 2#5 31#5) := by decide

theorem test_decode_srli :
    decode (word 0b0000000_00001_00100_101_00011_0010011#32) = .instr (.srli 3#5 4#5 1#5) := by decide

theorem test_decode_srai :
    decode (word 0b0100000_11111_00110_101_00101_0010011#32) = .instr (.srai 5#5 6#5 31#5) := by decide

theorem test_decode_add :
    decode (word 0b0000000_00010_00001_000_00011_0110011#32) = .instr (.add 3#5 1#5 2#5) := by decide

theorem test_decode_sub :
    decode (word 0b0100000_00010_00001_000_00011_0110011#32) = .instr (.sub 3#5 1#5 2#5) := by decide

theorem test_decode_sll :
    decode (word 0b0000000_00010_00001_001_00011_0110011#32) = .instr (.sll 3#5 1#5 2#5) := by decide

theorem test_decode_slt :
    decode (word 0b0000000_00010_00001_010_00011_0110011#32) = .instr (.slt 3#5 1#5 2#5) := by decide

theorem test_decode_sltu :
    decode (word 0b0000000_00010_00001_011_00011_0110011#32) = .instr (.sltu 3#5 1#5 2#5) := by decide

theorem test_decode_xor :
    decode (word 0b0000000_00010_00001_100_00011_0110011#32) = .instr (.xor 3#5 1#5 2#5) := by decide

theorem test_decode_srl :
    decode (word 0b0000000_00010_00001_101_00011_0110011#32) = .instr (.srl 3#5 1#5 2#5) := by decide

theorem test_decode_sra :
    decode (word 0b0100000_00010_00001_101_00011_0110011#32) = .instr (.sra 3#5 1#5 2#5) := by decide

theorem test_decode_or :
    decode (word 0b0000000_00010_00001_110_00011_0110011#32) = .instr (.or 3#5 1#5 2#5) := by decide

theorem test_decode_and :
    decode (word 0b0000000_00010_00001_111_00011_0110011#32) = .instr (.and 3#5 1#5 2#5) := by decide

theorem test_decode_csrrw :
    decode (word 0b001100000000_00010_001_00001_1110011#32) = .instr (.csrrw 1#5 2#5 0x300#12) := by decide

theorem test_decode_csrrs :
    decode (word 0b110000000000_00000_010_00101_1110011#32) = .instr (.csrrs 5#5 0#5 0xc00#12) := by decide

theorem test_decode_csrrc :
    decode (word 0b001101000001_00110_011_00000_1110011#32) = .instr (.csrrc 0#5 6#5 0x341#12) := by decide

theorem test_decode_csrrwi :
    decode (word 0b001100000101_11111_101_00000_1110011#32) = .instr (.csrrwi 0#5 31#5 0x305#12) := by decide

theorem test_decode_csrrsi :
    decode (word 0b100000000000_01000_110_00111_1110011#32) = .instr (.csrrsi 7#5 8#5 0x800#12) := by decide

theorem test_decode_csrrci :
    decode (word 0b111111111111_00001_111_00000_1110011#32) = .instr (.csrrci 0#5 1#5 0xfff#12) := by decide

theorem test_decode_ecall : decode (word 0b000000000000_00000_000_00001_1110011#32) = .instr .ecall := by decide

theorem test_decode_ebreak : decode (word 0b000000000001_00000_000_00000_1110011#32) = .instr .ebreak := by decide

theorem test_decode_uret : decode (word 0b000000000010_00000_000_00000_1110011#32) = .instr .uret := by decide

theorem test_decode_sret : decode (word 0b000100000010_00000_000_00000_1110011#32) = .instr .sret := by decide

theorem test_decode_mret : decode (word 0b001100000010_00000_000_00000_1110011#32) = .instr .mret := by decide

theorem test_decode_wfi : decode (word 0b000100000101_00000_000_00000_1110011#32) = .instr .wfi := by decide

theorem test_decode_fence :
    decode (word 0b0000_0011_0011_00000_000_00000_0001111#32) = .instr (.fence 0b00110011#8) := by decide

theorem test_decode_fenceI : decode (word 0b111111111111_00001_001_00001_0001111#32) = .instr .fenceI := by decide

theorem test_decode_cAddi4spn : decode [0b000_01000000_010_00#16] = .instr (.cAddi4spn 2#3 16#10) := by decide

theorem test_decode_cFld : decode [0b001_000_000_10_000_00#16] = .instr (.cFld 0#3 0#3 128#8) := by decide

theorem test_decode_cLw : decode [0b010_000_000_01_010_00#16] = .instr (.cLw 2#3 0#3 64#7) := by decide

theorem test_decode_cFlw : decode [0b011_111_111_11_111_00#16] = .instr (.cFlw 7#3 7#3 124#7) := by decide

theorem test_decode_cFsd : decode [0b101_111_111_11_111_00#16] = .instr (.cFsd 7#3 7#3 248#8) := by decide

theorem test_decode_cSw : decode [0b110_000_000_01_010_00#16] = .instr (.cSw 0#3 2#3 64#7) := by decide

theorem test_decode_cFsw : decode [0b111_000_000_10_010_00#16] = .instr (.cFsw 0#3 2#3 4#7) := by decide

theorem test_decode_cAddi : decode [0b000_1_00010_10000_01#16] = .instr (.cAddi 2#5 (-16#6)) := by decide

theorem test_decode_cJal : decode [0b001_01000000000_01#16] = .instr (.cJal 16#12) := by decide

theorem test_decode_cLi : decode [0b010_1_01010_11111_01#16] = .instr (.cLi 10#5 (-1#6)) := by decide

theorem test_decode_cAddi16sp : decode [0b011_1_00010_11110_01#16] = .instr (.cAddi16sp (-48#10)) := by decide

theorem test_decode_cLui : decode [0b011_1_01010_11111_01#16] = .instr (.cLui 10#5 (-4096#18)) := by decide

theorem test_decode_cAndi : decode [0b100_1_10_100_11111_01#16] = .instr (.cAndi 4#3 (-1#6)) := by decide

theorem test_decode_cSub : decode [0b100011_010_00_011_01#16] = .instr (.cSub 2#3 3#3) := by decide

theorem test_decode_cXor : decode [0b100011_010_01_011_01#16] = .instr (.cXor 2#3 3#3) := by decide

theorem test_decode_cOr : decode [0b100011_010_10_011_01#16] = .instr (.cOr 2#3 3#3) := by decide

theorem test_decode_cAnd : decode [0b100011_010_11_011_01#16] = .instr (.cAnd 2#3 3#3) := by decide

theorem test_decode_cJ : decode [0b101_11111111111_01#16] = .instr (.cJ (-2#12)) := by decide

theorem test_decode_cBeqz : decode [0b110_000_010_00110_01#16] = .instr (.cBeqz 2#3 6#9) := by decide

theorem test_decode_cBnez : decode [0b111_000_010_00110_01#16] = .instr (.cBnez 2#3 6#9) := by decide

theorem test_decode_cSlli : decode [0b000_1_01010_00000_10#16] = .instr (.cSlli 10#5 32#6) := by decide

theorem test_decode_cSlli64 : decode [0b000_0_01010_00000_10#16] = .instr (.cSlli64 10#5) := by decide

theorem test_decode_cFldsp : decode [0b001_0_01010_00010_10#16] = .instr (.cFldsp 10#5 128#9) := by decide

theorem test_decode_cLwsp : decode [0b010_0_00001_01100_10#16] = .instr (.cLwsp 1#5 12#8) := by decide

theorem test_decode_cFlwsp : decode [0b011_1_11111_11111_10#16] = .instr (.cFlwsp 31#5 252#8) := by decide

theorem test_decode_cJr : decode [0b1000_00001_00000_10#16] = .instr (.cJr 1#5) := by decide

theorem test_decode_cMv : decode [0b1000_01010_01011_10#16] = .instr (.cMv 10#5 11#5) := by decide

theorem test_decode_cEbreak : decode [0b1001_00000_00000_10#16] = .instr .cEbreak := by decide

theorem test_decode_cJalr : decode [0b1001_01010_00000_10#16] = .instr (.cJalr 10#5) := by decide

theorem test_decode_cAdd : decode [0b1001_01010_01011_10#16] = .instr (.cAdd 10#5 11#5) := by decide

theorem test_decode_cFsdsp : decode [0b101_001100_00001_10#16] = .instr (.cFsdsp 1#5 264#9) := by decide

theorem test_decode_cSwsp : decode [0b110_001100_00001_10#16] = .instr (.cSwsp 1#5 12#8) := by decide

theorem test_decode_cFswsp : decode [0b111_001100_00001_10#16] = .instr (.cFswsp 1#5 12#8) := by decide

-- 47_framed_only.md, the examples of R441 to R444
theorem test_decode_framedDoubleWord48 :
    decode [0b0000000000_011111#16, 0x2222#16, 0x3333#16] =
      .instr (.framedDoubleWord48 [0x001f#16, 0x2222#16, 0x3333#16]) := by decide

theorem test_decode_framedQuadWord64 :
    decode [0b000000000_0111111#16, 0x1111#16, 0x2222#16, 0x3333#16] =
      .instr (.framedQuadWord64 [0x003f#16, 0x1111#16, 0x2222#16, 0x3333#16]) := by decide

theorem test_decode_framedExtended :
    decode (0b0_110_00000_1111111#16 :: List.replicate 10 0x1234#16) =
      .instr (.framedExtended (0x607f#16 :: List.replicate 10 0x1234#16)) := by decide

theorem test_decode_framedReserved192 :
    decode (0b0_111_00000_1111111#16 :: List.replicate 11 0#16) =
      .instr (.framedReserved192 (0x707f#16 :: List.replicate 11 0#16)) := by decide

/-! ### Malformed encodings, with their tuples -/

theorem test_malformed_jalr : malformedTuple (word 0x00009067#32) = some (.word32 0x67#7 1#3 0#7) := by decide
theorem test_malformed_load : malformedTuple (word 0x00053383#32) = some (.word32 0x03#7 3#3 0#7) := by decide
theorem test_malformed_store : malformedTuple (word 0x00947023#32) = some (.word32 0x23#7 7#3 0#7) := by decide
theorem test_malformed_branch : malformedTuple (word 0x0041b063#32) = some (.word32 0x63#7 3#3 0#7) := by decide
theorem test_malformed_slli : malformedTuple (word 0x40311093#32) = some (.word32 0x13#7 1#3 0x20#7) := by decide
theorem test_malformed_srli : malformedTuple (word 0x02315093#32) = some (.word32 0x13#7 5#3 0x01#7) := by decide
theorem test_malformed_op : malformedTuple (word 0x022080b3#32) = some (.word32 0x33#7 0#3 0x01#7) := by decide
theorem test_malformed_priv : malformedTuple (word 0x12000073#32) = some (.word32 0x73#7 0#3 0x09#7) := by decide
theorem test_malformed_system : malformedTuple (word 0x00004073#32) = some (.word32 0x73#7 4#3 0#7) := by decide
theorem test_malformed_miscMem : malformedTuple (word 0x0000200f#32) = some (.word32 0x0f#7 2#3 0#7) := by decide
theorem test_malformed_custom0 : malformedTuple (word 0x0000000b#32) = some (.word32 0x0b#7 0#3 0#7) := by decide
theorem test_malformed_zero : malformedTuple [0x0000#16] = some (.compressed16 0#2 0#3) := by decide
theorem test_malformed_cAddi4spn : malformedTuple [0x001c#16] = some (.compressed16 0#2 0#3) := by decide
theorem test_malformed_c0_100 : malformedTuple [0x9ffc#16] = some (.compressed16 0#2 4#3) := by decide
theorem test_malformed_cSrli : malformedTuple [0x8105#16] = some (.compressed16 1#2 4#3) := by decide
theorem test_malformed_cSubw : malformedTuple [0x9d0d#16] = some (.compressed16 1#2 4#3) := by decide

/-! ### The classifier's table (95_test_vectors.md section 2) -/

theorem test_classify_table :
    [0x0000#16, 0x4501#16, 0x0003#16, 0x001b#16, 0x001f#16, 0x801f#16, 0x003f#16, 0x7fbf#16, 0x007f#16, 0x107f#16,
      0x607f#16, 0x8fff#16, 0x707f#16, 0xffff#16].map classify =
    [(.compressed16, 1), (.compressed16, 1), (.word32, 2), (.word32, 2), (.doubleWord48, 3), (.doubleWord48, 3),
      (.quadWord64, 4), (.quadWord64, 4), (.extended, 5), (.extended, 6), (.extended, 11), (.extended, 5),
      (.reserved192, 12), (.reserved192, 12)] := by decide

/-! ### One step: an event for each operand form -/

theorem test_event_noOperand :
    delivered (pass [0x73#8, 0x00#8, 0x20#8, 0x30#8] .eof) =
      some ⟨0, .word32, 4, [0x0073#16, 0x3020#16], 0x30200073#192, some { mnemonic := .mret }⟩ := by decide

theorem test_event_rdImm :
    delivered (pass [0xb7#8, 0x52#8, 0x34#8, 0x12#8] .eof) =
      some ⟨0, .word32, 4, [0x52b7#16, 0x1234#16], 0x123452b7#192,
        some { mnemonic := .lui, rd := some 5#5, imm := some 0x12345000#32 }⟩ := by decide

theorem test_event_rdRs1Imm :
    delivered (pass [0x83#8, 0x22#8, 0x04#8, 0x80#8] .eof) =
      some ⟨0, .word32, 4, [0x2283#16, 0x8004#16], 0x80042283#192,
        some { mnemonic := .lw, rd := some 5#5, rs1 := some 8#5, imm := some 0xfffff800#32 }⟩ := by decide

theorem test_event_rdRs1Csr :
    delivered (pass [0xf3#8, 0x63#8, 0x04#8, 0x80#8] .eof) =
      some ⟨0, .word32, 4, [0x63f3#16, 0x8004#16], 0x800463f3#192,
        some { mnemonic := .csrrsi, rd := some 7#5, rs1 := some 8#5, imm := some 0x800#32 }⟩ := by decide

theorem test_event_rdRs1Shamt :
    delivered (pass [0x93#8, 0x52#8, 0xf3#8, 0x41#8] .eof) =
      some ⟨0, .word32, 4, [0x5293#16, 0x41f3#16], 0x41f35293#192,
        some { mnemonic := .srai, rd := some 5#5, rs1 := some 6#5, imm := some 31#32 }⟩ := by decide

theorem test_event_rs1Rs2Imm :
    delivered (pass [0xe3#8, 0x0e#8, 0x00#8, 0xfe#8] .eof) =
      some ⟨0, .word32, 4, [0x0ee3#16, 0xfe00#16], 0xfe000ee3#192,
        some { mnemonic := .beq, rs1 := some 0#5, rs2 := some 0#5, imm := some 0xfffffffc#32 }⟩ := by decide

theorem test_event_rdRs1Rs2 :
    delivered (pass [0xb3#8, 0x81#8, 0x20#8, 0x40#8] .eof) =
      some ⟨0, .word32, 4, [0x81b3#16, 0x4020#16], 0x402081b3#192,
        some { mnemonic := .sub, rd := some 3#5, rs1 := some 1#5, rs2 := some 2#5 }⟩ := by decide

theorem test_event_fence :
    delivered (pass [0x0f#8, 0x00#8, 0x30#8, 0x83#8] .eof) =
      some ⟨0, .word32, 4, [0x000f#16, 0x8330#16], 0x8330000f#192,
        some { mnemonic := .fence, fence := some 0b00110011#8 }⟩ := by decide

theorem test_event_imm :
    delivered (pass [0xfd#8, 0xbf#8] .eof) =
      some ⟨0, .compressed16, 2, [0xbffd#16], 0xbffd#192, some { mnemonic := .cJ, imm := some 0xfffffffe#32 }⟩ := by
  decide

theorem test_event_rs1Imm :
    delivered (pass [0x19#8, 0xc1#8] .eof) =
      some ⟨0, .compressed16, 2, [0xc119#16], 0xc119#192,
        some { mnemonic := .cBeqz, rs1 := some 10#5, imm := some 6#32 }⟩ := by decide

theorem test_event_rdRs2 :
    delivered (pass [0xbd#8, 0x8f#8] .eof) =
      some ⟨0, .compressed16, 2, [0x8fbd#16], 0x8fbd#192,
        some { mnemonic := .cXor, rd := some 15#5, rs2 := some 15#5 }⟩ := by decide

theorem test_event_rs1 :
    delivered (pass [0x82#8, 0x80#8] .eof) =
      some ⟨0, .compressed16, 2, [0x8082#16], 0x8082#192, some { mnemonic := .cJr, rs1 := some 1#5 }⟩ := by decide

theorem test_event_rs2Imm :
    delivered (pass [0x06#8, 0xa6#8] .eof) =
      some ⟨0, .compressed16, 2, [0xa606#16], 0xa606#192,
        some { mnemonic := .cFsdsp, rs2 := some 1#5, imm := some 264#32 }⟩ := by decide

theorem test_event_rdShamt :
    delivered (pass [0x02#8, 0x15#8] .eof) =
      some ⟨0, .compressed16, 2, [0x1502#16], 0x1502#192,
        some { mnemonic := .cSlli, rd := some 10#5, imm := some 32#32 }⟩ := by decide

theorem test_event_rd :
    delivered (pass [0x02#8, 0x05#8] .eof) =
      some ⟨0, .compressed16, 2, [0x0502#16], 0x0502#192, some { mnemonic := .cSlli64, rd := some 10#5 }⟩ := by decide

theorem test_event_framed :
    delivered (pass [0x1f#8, 0x00#8, 0x22#8, 0x22#8, 0x33#8, 0x33#8] .eof) =
      some ⟨0, .doubleWord48, 6, [0x001f#16, 0x2222#16, 0x3333#16], 0x33332222001f#192, none⟩ := by decide

/-! ### One step: the ends of a pass -/

-- P2: the second instruction's offset is 2
theorem test_event_second_offset :
    (delivered (atOffset (pass [0x01#8, 0x45#8, 0x93#8, 0x00#8, 0x50#8, 0x00#8] .eof) 2)).map (fun e => e.offset) =
      some 2 := by decide

-- R9: the reported offset is reduced, `ptr` is not
theorem test_event_offset_reduced :
    ((stepped { atOffset (pass [0x01#8, 0x45#8, 0x05#8, 0x65#8] .eof) 2 with
        params := ⟨.little, .bits 1 (by decide)⟩ }).map fun t => (t.events.map (fun e => e.offset), t.ptr)) =
      some ([0], 4) := by decide

-- an empty stream (R506)
theorem test_end_of_empty_stream : reported (pass [] .eof) = some (.done 0) := by decide

-- P3: truncated after a good instruction
theorem test_truncated :
    reported (atOffset (pass [0x01#8, 0x45#8, 0x93#8, 0x00#8] .eof) 2) =
      some (.error ⟨.truncatedInstruction, 2, [0x0093#16], none⟩) := by decide

-- P4: malformed, with the tuple; `ptr` stays
theorem test_malformed_abort :
    ((stepped (atOffset (pass [0x93#8, 0x00#8, 0x50#8, 0x00#8, 0x05#8, 0x81#8, 0x01#8, 0x45#8] .eof) 4)).map
        fun t => (t.outcome, t.ptr)) =
      some (some (.error ⟨.malformedEncoding, 4, [0x8105#16], some (.compressed16 1#2 4#3)⟩), 4) := by decide

-- R67: one odd byte
theorem test_odd_byte : reported (pass [0x01#8] .eof) = some (.error ⟨.truncatedInstruction, 0, [], none⟩) := by decide

-- R505: an I/O failure inside an instruction
theorem test_io_failure :
    reported (pass [0x93#8, 0x00#8] .ioError) = some (.error ⟨.ioFailure, 0, [0x0093#16], none⟩) := by decide

-- R507: framing comes before decoding (custom-0, then the end of the stream)
theorem test_framing_first :
    reported (pass [0x0b#8, 0x00#8] .eof) = some (.error ⟨.truncatedInstruction, 0, [0x000b#16], none⟩) := by decide

-- P10b: the same two bytes in the order `big` are `c.addi`
theorem test_byte_order_big :
    (delivered (passBig [0x01#8, 0x45#8] .eof)).map (fun e => e.parcels) = some [0x0145#16] := by decide

-- R80: a read that is never answered
theorem test_unanswered : stepped (startPass Config.defaultParams [0x93#8, 0x00#8, 0x50#8, 0x00#8] .eof (some 2)) =
    none := by decide

-- R40: no step after the end
theorem test_no_step_after_done : ((stepped (pass [] .eof)).bind stepped) = none := by decide

theorem test_decodeTableWord : decodeTableWord 32 0x00500093 = some (.addi 1#5 0#5 5#12) := by decide

theorem test_withFetchWord :
    (delivered (State.reset.withFetchWord 16 0x4501)).map (fun e => e.decoded) =
      some (some { mnemonic := .cLi, rd := some 10#5, imm := some 0#32 }) := by decide

/-! ### Witnesses: inputs that meet the hypotheses of the statements, one for each clause -/

/-- The fields the 32-bit statements test: `opcode`, `funct3`, `funct7`. -/
def tested (w : Word) : BitVec 7 × BitVec 3 × BitVec 7 := (w.extractLsb' 0 7, w.extractLsb' 12 3, w.extractLsb' 25 7)

/-- The fields the 16-bit statements test: quadrant, selector, `c[12]`, `c[11:7]`, `c[6:2]`. -/
def tested16 (c : Parcel) : BitVec 2 × BitVec 3 × BitVec 1 × BitVec 5 × BitVec 5 :=
  (c.extractLsb' 0 2, c.extractLsb' 13 3, c.extractLsb' 12 1, c.extractLsb' 7 5, c.extractLsb' 2 5)

theorem witness_LuiAndAuipcDeliverRdAndUpperImmediate :
    [0x800000b7#32, 0xfffff517#32].map (fun w => w.extractLsb' 0 7) = [0b0110111#7, 0b0010111#7] := by decide

theorem witness_JalDeliversRdAndJumpOffset :
    [0x80000fef#32, 0x7ffff06f#32].map (fun w => w.extractLsb' 0 7) = [0b1101111#7, 0b1101111#7] := by decide

theorem witness_JalrDeliversOrIsMalformed :
    [0x00008067#32, 0x00009067#32, 0x0000f067#32].map tested =
      [(0x67#7, 0#3, 0#7), (0x67#7, 1#3, 0#7), (0x67#7, 7#3, 0#7)] := by decide

theorem witness_LoadsDeliverOrAreMalformed :
    [0xfff10503#32, 0x7fe19583#32, 0x80042283#32, 0x0074c303#32, 0x7ff55383#32, 0x00053383#32, 0x00056383#32,
      0x00057383#32].map (fun w => (w.extractLsb' 0 7, w.extractLsb' 12 3)) =
      [(0x03#7, 0#3), (0x03#7, 1#3), (0x03#7, 2#3), (0x03#7, 4#3), (0x03#7, 5#3), (0x03#7, 3#3), (0x03#7, 6#3),
        (0x03#7, 7#3)] := by decide

theorem witness_StoresDeliverOrAreMalformed :
    [0xfea10fa3#32, 0x80b19023#32, 0x7e942fa3#32, 0x00943023#32, 0x00947023#32].map
        (fun w => (w.extractLsb' 0 7, w.extractLsb' 12 3)) =
      [(0x23#7, 0#3), (0x23#7, 1#3), (0x23#7, 2#3), (0x23#7, 3#3), (0x23#7, 7#3)] := by decide

theorem witness_BranchesDeliverOrAreMalformed :
    [0x00b50463#32, 0xfe051ce3#32, 0x7e20cfe3#32, 0x8020d063#32, 0x0041e163#32, 0xfe41ffe3#32, 0x0041a063#32,
      0x0041b063#32].map (fun w => (w.extractLsb' 0 7, w.extractLsb' 12 3)) =
      [(0x63#7, 0#3), (0x63#7, 1#3), (0x63#7, 4#3), (0x63#7, 5#3), (0x63#7, 6#3), (0x63#7, 7#3), (0x63#7, 2#3),
        (0x63#7, 3#3)] := by decide

theorem witness_OpImmDeliversOrIsMalformed :
    [0x80000013#32, 0xfff12093#32, 0xfff13093#32, 0xfff54513#32, 0x0ff66613#32, 0x0ff57513#32].map
        (fun w => (w.extractLsb' 0 7, w.extractLsb' 12 3)) =
      [(0x13#7, 0#3), (0x13#7, 2#3), (0x13#7, 3#3), (0x13#7, 4#3), (0x13#7, 6#3), (0x13#7, 7#3)] ∧
    [0x01f11093#32, 0x00125193#32, 0x41f35293#32, 0x40311093#32, 0x02315093#32].map tested =
      [(0x13#7, 1#3, 0#7), (0x13#7, 5#3, 0#7), (0x13#7, 5#3, 0x20#7), (0x13#7, 1#3, 0x20#7), (0x13#7, 5#3, 1#7)] := by
  decide

theorem witness_OpDeliversOrIsMalformed :
    [0x002081b3#32, 0x402081b3#32, 0x002091b3#32, 0x0020a1b3#32, 0x0020b1b3#32, 0x0020c1b3#32, 0x0020d1b3#32,
      0x4020d1b3#32, 0x0020e1b3#32, 0x0020f1b3#32, 0x022081b3#32, 0x4020f1b3#32].map tested =
      [(0x33#7, 0#3, 0#7), (0x33#7, 0#3, 0x20#7), (0x33#7, 1#3, 0#7), (0x33#7, 2#3, 0#7), (0x33#7, 3#3, 0#7),
        (0x33#7, 4#3, 0#7), (0x33#7, 5#3, 0#7), (0x33#7, 5#3, 0x20#7), (0x33#7, 6#3, 0#7), (0x33#7, 7#3, 0#7),
        (0x33#7, 0#3, 1#7), (0x33#7, 7#3, 0x20#7)] := by decide

theorem witness_CsrInstructionsDeliverCsrNumber :
    [0x300110f3#32, 0xc00022f3#32, 0x34133073#32, 0x305fd073#32, 0x800463f3#32, 0xfff0f073#32].map
        (fun w => (w.extractLsb' 0 7, w.extractLsb' 12 3)) =
      [(0x73#7, 1#3), (0x73#7, 2#3), (0x73#7, 3#3), (0x73#7, 5#3), (0x73#7, 6#3), (0x73#7, 7#3)] := by decide

theorem witness_PrivInstructionsDeliverMnemonicAlone :
    [0x000000f3#32, 0x00100073#32, 0x00200073#32, 0x10200073#32, 0x30200073#32, 0x10500073#32, 0x00300073#32,
      0x00004073#32].map (fun w => (w.extractLsb' 0 7, w.extractLsb' 12 3, w.extractLsb' 20 12)) =
      [(0x73#7, 0#3, 0x000#12), (0x73#7, 0#3, 0x001#12), (0x73#7, 0#3, 0x002#12), (0x73#7, 0#3, 0x102#12),
        (0x73#7, 0#3, 0x302#12), (0x73#7, 0#3, 0x105#12), (0x73#7, 0#3, 0x003#12), (0x73#7, 4#3, 0x000#12)] := by
  decide

theorem witness_FencesDeliverFlagsOrAreMalformed :
    [0x8330000f#32, 0xfff0908f#32, 0x0000200f#32, 0x0000700f#32].map
        (fun w => (w.extractLsb' 0 7, w.extractLsb' 12 3)) =
      [(0x0f#7, 0#3), (0x0f#7, 1#3), (0x0f#7, 2#3), (0x0f#7, 7#3)] := by decide

theorem witness_CAddi4spnDeliversOrIsMalformed :
    [0x0020#16, 0x1ffc#16, 0x001c#16].map (fun c => (c.extractLsb' 0 2, c.extractLsb' 13 3, c.extractLsb' 5 8)) =
      [(0#2, 0#3, 1#8), (0#2, 0#3, 0xff#8), (0#2, 0#3, 0#8)] := by decide

theorem witness_QuadrantC0LoadsAndStoresDeliver :
    [0x3ffc#16, 0x5ffc#16, 0x7ffc#16, 0x9ffc#16, 0xbffc#16, 0xdffc#16, 0xfffc#16].map
        (fun c => (c.extractLsb' 0 2, c.extractLsb' 13 3)) =
      [(0#2, 1#3), (0#2, 2#3), (0#2, 3#3), (0#2, 4#3), (0#2, 5#3), (0#2, 6#3), (0#2, 7#3)] := by decide

theorem witness_CAddiCLiAndCompressedJumpsDeliver :
    [0x1001#16, 0x3001#16, 0x507d#16, 0xbffd#16].map (fun c => (c.extractLsb' 0 2, c.extractLsb' 13 3)) =
      [(1#2, 0#3), (1#2, 1#3), (1#2, 2#3), (1#2, 5#3)] := by decide

theorem witness_CAddi16spAndCLuiSplitOnRegisterTwo :
    [0x7101#16, 0x7001#16, 0x6085#16].map (fun c => (c.extractLsb' 0 2, c.extractLsb' 13 3, c.extractLsb' 7 5)) =
      [(1#2, 3#3, 2#5), (1#2, 3#3, 0#5), (1#2, 3#3, 1#5)] := by decide

theorem witness_QuadrantC1ArithmeticDeliversOrIsMalformed :
    [0x8105#16, 0x8505#16, 0x9a7d#16, 0x8c01#16, 0x8fbd#16, 0x8d4d#16, 0x8c61#16, 0x9d0d#16, 0x9fed#16].map
        (fun c => (c.extractLsb' 0 2, c.extractLsb' 13 3, c.extractLsb' 10 2, c.extractLsb' 12 1, c.extractLsb' 5 2)) =
      [(1#2, 4#3, 0#2, 0#1, 0#2), (1#2, 4#3, 1#2, 0#1, 0#2), (1#2, 4#3, 2#2, 1#1, 3#2), (1#2, 4#3, 3#2, 0#1, 0#2),
        (1#2, 4#3, 3#2, 0#1, 1#2), (1#2, 4#3, 3#2, 0#1, 2#2), (1#2, 4#3, 3#2, 0#1, 3#2), (1#2, 4#3, 3#2, 1#1, 0#2),
        (1#2, 4#3, 3#2, 1#1, 3#2)] := by decide

theorem witness_CompressedBranchesDeliver :
    [0xd001#16, 0xfffd#16].map (fun c => (c.extractLsb' 0 2, c.extractLsb' 13 3)) = [(1#2, 6#3), (1#2, 7#3)] := by
  decide

theorem witness_CSlliAndCSlli64SplitOnShiftAmount :
    [0x0506#16, 0x1502#16, 0x0502#16].map tested16 =
      [(2#2, 0#3, 0#1, 10#5, 1#5), (2#2, 0#3, 1#1, 10#5, 0#5), (2#2, 0#3, 0#1, 10#5, 0#5)] := by decide

theorem witness_StackLoadsDeliver :
    [0x3ffe#16, 0x5ffe#16, 0x7ffe#16].map (fun c => (c.extractLsb' 0 2, c.extractLsb' 13 3)) =
      [(2#2, 1#3), (2#2, 2#3), (2#2, 3#3)] := by decide

theorem witness_StackStoresDeliver :
    [0xbffe#16, 0xdffe#16, 0xfffe#16].map (fun c => (c.extractLsb' 0 2, c.extractLsb' 13 3)) =
      [(2#2, 5#3), (2#2, 6#3), (2#2, 7#3)] := by decide

theorem witness_QuadrantC2RegisterAndJumpGroupDelivers :
    [0x8002#16, 0x8006#16, 0x9002#16, 0x9082#16, 0x9006#16].map tested16 =
      [(2#2, 4#3, 0#1, 0#5, 0#5), (2#2, 4#3, 0#1, 0#5, 1#5), (2#2, 4#3, 1#1, 0#5, 0#5), (2#2, 4#3, 1#1, 1#5, 0#5),
        (2#2, 4#3, 1#1, 0#5, 1#5)] := by decide

/-- A 48-bit, a 64-bit, both ends of the extended and a 192-bit instruction. -/
theorem witness_FramedInstructionsDeliverWithoutDecoding_classes :
    (0x801f#16).extractLsb' 0 6 = 0b011111#6 ∧ (0x7fbf#16).extractLsb' 0 7 = 0b0111111#7 ∧
    [0x8fff#16, 0x607f#16, 0x7fff#16].map (fun p => (p.extractLsb' 0 7, (p.extractLsb' 12 3).toNat)) =
      [(0x7f#7, 0), (0x7f#7, 6), (0x7f#7, 7)] := by decide

/-- A state that presents a 48-bit instruction. -/
theorem witness_FramedInstructionsDeliverWithoutDecoding_presents :
    Presents (pass [0x1f#8, 0x80#8, 0x22#8, 0x22#8, 0x33#8, 0x33#8] .ioError) [0x801f#16, 0x2222#16, 0x3333#16] :=
  ⟨rfl, ⟨by decide, by decide, by decide, trivial⟩, _, _, rfl, by decide⟩

theorem witness_EveryWellFormedInstructionCompletes :
    [Instr.lui 31#5 0xfffff000#32, .cAddi4spn 7#3 4#10, .cSlli 0#5 63#6,
      .framedReserved192 (0x7fff#16 :: List.replicate 11 0xffff#16)].map Instr.wellFormed =
      [true, true, true, true] := by decide

/-- At the last instruction of a stream. -/
theorem witness_StepRunsDecodedInstruction :
    Presents (atOffset (pass [0x01#8, 0x45#8, 0x93#8, 0x00#8, 0x50#8, 0x00#8] .eof) 2) [0x0093#16, 0x0050#16] ∧
      decode [0x0093#16, 0x0050#16] = .instr (.addi 1#5 0#5 5#12) :=
  ⟨⟨rfl, ⟨by decide, by decide, trivial⟩, _, _, rfl, by decide⟩, by decide⟩

theorem witness_MalformedInstructionAborts :
    Presents (pass [0x05#8, 0x81#8] .eof) [0x8105#16] ∧
      decode [0x8105#16] = .rejected (.malformed (.compressed16 1#2 4#3)) :=
  ⟨⟨rfl, ⟨by decide, trivial⟩, _, _, rfl, by decide⟩, by decide⟩

/-- (a) exhausted after the first parcel, and after the eleventh of twelve; (b) one odd byte. -/
theorem witness_ExhaustionInsideAnInstructionTruncates :
    (Begins (pass [0x93#8, 0x00#8] .eof) [0x0093#16] ∧
      (pass [0x93#8, 0x00#8] .eof).answerAt 2 = some (.eof 0)) ∧
    (Begins (pass (0x7f#8 :: 0x70#8 :: List.replicate 21 0#8) .eof) (0x707f#16 :: List.replicate 10 0#16) ∧
      (pass (0x7f#8 :: 0x70#8 :: List.replicate 21 0#8) .eof).answerAt 22 = some (.eof 1)) ∧
    (Begins (pass [0x01#8] .eof) [] ∧ (pass [0x01#8] .eof).answerAt 0 = some (.eof 1)) := by
  refine ⟨⟨⟨rfl, ⟨by decide, trivial⟩, ?_⟩, by decide⟩, ⟨⟨rfl, ?_, ?_⟩, by decide⟩, ⟨⟨rfl, trivial, ?_⟩, by decide⟩⟩
  · rintro _ _ ⟨⟩; decide
  · exact ⟨by decide, by decide, by decide, by decide, by decide, by decide, by decide, by decide, by decide, by decide,
      by decide, trivial⟩
  · rintro _ _ ⟨⟩; decide
  · intro _ _ h; cases h

/-- The first read fails, and a later one. -/
theorem witness_ReadFailureAbortsAsIoFailure :
    (Begins (pass [] .ioError) [] ∧ (pass [] .ioError).answerAt 0 = some .ioError) ∧
    (Begins (pass [0x93#8, 0x00#8, 0x50#8] .ioError) [0x0093#16] ∧
      (pass [0x93#8, 0x00#8, 0x50#8] .ioError).answerAt 2 = some .ioError) := by
  refine ⟨⟨⟨rfl, trivial, ?_⟩, by decide⟩, ⟨⟨rfl, ⟨by decide, trivial⟩, ?_⟩, by decide⟩⟩
  · intro _ _ h; cases h
  · rintro _ _ ⟨⟩; decide

theorem witness_ExhaustionAtABoundaryEndsCleanly :
    ((pass [] .eof).status = .running ∧ (pass [] .eof).answerAt 0 = some (.eof 0)) ∧
    ((atOffset (pass [0x01#8, 0x45#8] .eof) 2).answerAt 2 = some (.eof 0)) ∧
    (Begins (pass [0x93#8, 0x00#8] .eof) [0x0093#16] ∧ (pass [0x93#8, 0x00#8] .eof).answerAt 2 = some (.eof 0) ∧
      ∃ t, step (pass [0x93#8, 0x00#8] .eof) = .next t) := by
  refine ⟨⟨rfl, by decide⟩, by decide, ⟨rfl, ⟨by decide, trivial⟩, ?_⟩, by decide, _, rfl⟩
  rintro _ _ ⟨⟩; decide

/-- One abort of each kind. -/
theorem witness_AbortIsPrecise :
    (∃ t e, step (pass [0x01#8] .eof) = .next t ∧ t.status = .aborted e ∧ e.kind = .truncatedInstruction) ∧
    (∃ t e, step (pass [0x00#8, 0x00#8] .eof) = .next t ∧ t.status = .aborted e ∧ e.kind = .malformedEncoding) ∧
    (∃ t e, step (pass [] .ioError) = .next t ∧ t.status = .aborted e ∧ e.kind = .ioFailure) :=
  ⟨⟨_, _, rfl, rfl, by decide⟩, ⟨_, _, rfl, rfl, by decide⟩, ⟨_, _, rfl, rfl, by decide⟩⟩

/-- A source that is silent only past this step's one read; a clean end and an abort. -/
theorem witness_StepsExactlyWhileRunning :
    (let s := startPass Config.defaultParams [0x01#8, 0x45#8] .eof (some 2);
      s.status = .running ∧ ∀ ps, Begins s ps → s.answerAt (s.ptr + 2 * ps.length) ≠ none) ∧
    (∃ t, step (pass [] .eof) = .next t ∧ t.status = .done 0) ∧
    ∃ t e, step (pass [] .ioError) = .next t ∧ t.status = .aborted e := by
  refine ⟨⟨rfl, ?_⟩, ⟨_, rfl, rfl⟩, ⟨_, _, rfl, rfl⟩⟩
  intro ps h
  cases ps with
  | nil => decide
  | cons p0 rest =>
    have h0 := h.answers.1
    have hp : p0 = 0x4501#16 := by
      have : some (SourceAnswer.ok 0x4501#16) = some (.ok p0) := h0
      simpa using this.symm
    have hl := h.partly p0 rest rfl
    have hc : (classify 0x4501#16).2 = 1 := by decide
    rw [hp, hc] at hl
    simp at hl

/-- The first read is never answered, and the second. -/
theorem witness_UnansweredReadHolds :
    (Begins (startPass Config.defaultParams [0x93#8, 0x00#8] .eof (some 0)) [] ∧
      (startPass Config.defaultParams [0x93#8, 0x00#8] .eof (some 0)).answerAt 0 = none) ∧
    (Begins (startPass Config.defaultParams [0x93#8, 0x00#8] .eof (some 2)) [0x0093#16] ∧
      (startPass Config.defaultParams [0x93#8, 0x00#8] .eof (some 2)).answerAt 2 = none) := by
  refine ⟨⟨⟨rfl, trivial, ?_⟩, by decide⟩, ⟨⟨rfl, ⟨by decide, trivial⟩, ?_⟩, by decide⟩⟩
  · intro _ _ h; cases h
  · rintro _ _ ⟨⟩; decide

/-- Any pass begins in the invariant; this one has a step that delivers an event. -/
theorem witness_StepKeepsPassInvariant :
    Inv (pass [0x01#8, 0x45#8] .eof) ∧ ∃ t, step (pass [0x01#8, 0x45#8] .eof) = .next t :=
  ⟨⟨by decide, by decide, by decide, rfl, rfl, by simp [pass, startPass, State.reset], rfl, by decide,
    rfl, rfl, by simp [pass, startPass, State.reset]⟩, _, rfl⟩

/-- A step that delivers an event, a clean end and an abort: the steps that `StreamIsFixedForThePass`,
`PtrAdvancesByTheDeliveredLength`, `ReadsOfAStepAreInOffsetOrder` and the last clause of
`ReadParcelCombinesByByteOrder` speak of. -/
theorem witness_step_answers_next :
    (∃ t, step (pass [0x01#8, 0x45#8] .eof) = .next t ∧ t.status = .running) ∧
    (∃ t, step (pass [] .eof) = .next t ∧ t.status = .done 0) ∧
    ∃ t e, step (pass [0x01#8] .eof) = .next t ∧ t.status = .aborted e :=
  ⟨⟨_, rfl, rfl⟩, ⟨_, rfl, rfl⟩, ⟨_, _, rfl, rfl⟩⟩

/-- With three offset bits a step at `ptr = 10` delivers its event at offset 2, and one aborts there. -/
theorem witness_reported_offset_wraps :
    let narrow (bytes : List Byte) : State :=
      atOffset (startPass { byteOrder := .little, ptrWidth := .bits 3 (by decide) }
        (List.replicate 10 0x01#8 ++ bytes) .eof none) 10
    (∃ t, step (narrow [0x01#8, 0x45#8]) = .next t ∧ t.events.map (fun e => e.offset) = [2]) ∧
    ∃ t e, step (narrow [0x00#8, 0x00#8]) = .next t ∧ t.status = .aborted e ∧ e.offset = 2 :=
  ⟨⟨_, rfl, by decide⟩, ⟨_, _, rfl, rfl, by decide⟩⟩

/-- Words whose unread bits are set, through the decoder the step calls: `ecall`, `fence`, `fence.i` (R281, R296, R298). -/
theorem test_decode_ignores_unread_bits :
    [0x000000f3#32, 0x8330000f#32, 0xfff0908f#32].map (fun w => decode (halves w)) =
      [.instr .ecall, .instr (.fence 0b00110011#8), .instr .fenceI] := by decide

/-- The same parcels at different offsets, in different byte orders: one that decodes and one that does not. -/
theorem witness_SameParcelsSameResult :
    (Presents (pass [0x01#8, 0x45#8] .eof) [0x4501#16] ∧
      Presents (atOffset (passBig [0x00#8, 0x00#8, 0x45#8, 0x01#8] .ioError) 2) [0x4501#16]) ∧
    (Presents (pass [0x05#8, 0x81#8] .eof) [0x8105#16] ∧
      Presents (atOffset (passBig [0x00#8, 0x00#8, 0x81#8, 0x05#8] .ioError) 2) [0x8105#16]) :=
  ⟨⟨⟨rfl, ⟨by decide, trivial⟩, _, _, rfl, by decide⟩, ⟨rfl, ⟨by decide, trivial⟩, _, _, rfl, by decide⟩⟩,
    ⟨⟨rfl, ⟨by decide, trivial⟩, _, _, rfl, by decide⟩, ⟨rfl, ⟨by decide, trivial⟩, _, _, rfl, by decide⟩⟩⟩

theorem witness_EveryPassEnds :
    (pass [0x01#8, 0x45#8, 0x05#8] .ioError).status = .running ∧
      Memory.wf (pass [0x01#8, 0x45#8, 0x05#8] .ioError).source.bytes = true ∧
      AnswersAll (pass [0x01#8, 0x45#8, 0x05#8] .ioError) := ⟨rfl, by decide, rfl⟩

theorem witness_StreamOfEncodingsIsDecodedBack :
    ∀ i ∈ [Instr.addi 1#5 0#5 5#12, .cLi 10#5 0#6, .framedDoubleWord48 [0x001f#16, 0x2222#16, 0x3333#16]],
      i.wellFormed = true := by decide

/-- A reset in the middle of a pass, and the first step of the new pass. -/
theorem witness_ResetStartsAPassAtOffsetZero :
    ∃ t, step ((atOffset (pass [0x01#8, 0x45#8] .eof) 2).restart Config.defaultParams [0x01#8] .eof none).2 =
      .next t := ⟨_, rfl⟩

theorem witness_PlacedTableWordIsRunNext :
    decodeTableWord 16 0x4501 = some (.cLi 10#5 0#6) ∧
      decodeTableWord 16 0x001f = some (.framedDoubleWord48 [0x001f#16, 0#16, 0#16]) := by decide

theorem witness_DecodeOfEncodeIsTheInstruction :
    [Instr.beq 31#5 31#5 (-4096#13), .cAddi16sp (-512#10), .cLui 31#5 (-131072#18),
      .framedExtended (0x607f#16 :: List.replicate 10 0#16)].map Instr.wellFormed = [true, true, true, true] := by decide

theorem witness_DecodedInstructionsAreWellFormed :
    decode (word 0xfe000ee3#32) = .instr (.beq 0#5 0#5 (-4#13)) := by decide

/-- A compressed word, and a 32-bit word for each of the four clauses. -/
theorem witness_EncodeOfDecodeRestoresTheWord :
    decode16 0x4501#16 = some (.cLi 10#5 0#6) ∧
    [0x8330000f#32, 0xfff0908f#32, 0x000000f3#32, 0x00500093#32, 0x300110f3#32].map decode32 =
      [some (.fence 0b00110011#8), some .fenceI, some .ecall, some (.addi 1#5 0#5 5#12),
        some (.csrrw 1#5 2#5 0x300#12)] ∧
    [0x8330000f#32, 0xfff0908f#32, 0x000000f3#32, 0x00500093#32, 0x300110f3#32].map
        (fun w => (w.extractLsb' 0 7, w.extractLsb' 12 3)) =
      [(0x0f#7, 0#3), (0x0f#7, 1#3), (0x73#7, 0#3), (0x13#7, 0#3), (0x73#7, 1#3)] := by decide

theorem witness_ClassifierFollowsItsPatterns :
    [0xfffc#16, 0xfffe#16, 0x0003#16, 0x001b#16, 0xff9f#16, 0xffbf#16, 0x8fff#16, 0x607f#16, 0x7fff#16].map
        (fun p => (p.extractLsb' 0 2, p.extractLsb' 2 3, p.extractLsb' 5 2, p.extractLsb' 12 3)) =
      [(0#2, 7#3, 3#2, 7#3), (2#2, 7#3, 3#2, 7#3), (3#2, 0#3, 0#2, 0#3), (3#2, 6#3, 0#2, 0#3), (3#2, 7#3, 0#2, 7#3),
        (3#2, 7#3, 1#2, 7#3), (3#2, 7#3, 3#2, 0#3), (3#2, 7#3, 3#2, 6#3), (3#2, 7#3, 3#2, 7#3)] ∧
    (0x007f#16).extractLsb' 12 3 = (0x8fff#16).extractLsb' 12 3 ∧
    (0x007f#16).extractLsb' 0 7 = (0x8fff#16).extractLsb' 0 7 := by decide

/-- The last byte, and one past it, with either terminator. -/
theorem witness_MemReadAnswersFromTheStream :
    [(pass [1#8, 2#8, 3#8] .eof).source.memRead 1 2, (pass [1#8, 2#8, 3#8] .eof).source.memRead 2 2,
      (pass [1#8, 2#8, 3#8] .eof).source.memRead 4 2, (pass [1#8, 2#8, 3#8] .ioError).source.memRead 2 2] =
      [some (.ok [2#8, 3#8]), some (.eof 1), some (.eof 0), some .ioError] := by decide

theorem witness_ReadParcelCombinesByByteOrder :
    (pass [0x01#8, 0x45#8] .eof).source.memRead 0 2 = some (.ok [0x01#8, 0x45#8]) ∧
    (pass [0x01#8] .eof).source.memRead 0 2 = some (.eof 1) ∧
    (pass [0x01#8] .ioError).source.memRead 0 2 = some .ioError := by decide

theorem witness_WordReadIsTwoParcelsInLittleOrder :
    let src := (pass [0x93#8, 0x00#8, 0x50#8, 0x00#8] .eof).source
    (src.readParcel .little src.cursor = some (.ok 0x0093#16) ∧
      src.readParcel .little (src.cursor + 2) = some (.ok 0x0050#16)) ∧
    (src.readParcel .big src.cursor = some (.ok 0x9300#16) ∧
      src.readParcel .big (src.cursor + 2) = some (.ok 0x5000#16)) := by decide

/-- A source with four bytes left and one with three, either terminator, and a silent one. -/
theorem witness_ContractReadsAnswerInThreeWays :
    let src (t : Terminator) (c : Nat) (q : Option Nat) : ByteSource :=
      { bytes := Memory.ofBytes [0x93#8, 0x00#8, 0x50#8, 0x00#8], terminator := t, cursor := c, silentFrom := q }
    ((src .eof 0 none).silentAt 0 = false ∧ ([0x93#8, 0x00#8, 0x50#8, 0x00#8].drop 0).length = 4) ∧
    ((src .ioError 1 none).silentAt 1 = false ∧ ([0x93#8, 0x00#8, 0x50#8, 0x00#8].drop 1).length < 4) ∧
    ((src .eof 3 none).silentAt 3 = false ∧ ([0x93#8, 0x00#8, 0x50#8, 0x00#8].drop 3).length < 2) ∧
    ((src .eof 4 none).silentAt 4 = false ∧ ([0x93#8, 0x00#8, 0x50#8, 0x00#8].drop 4).length < 1) ∧
    (src .eof 2 (some 2)).silentAt 2 = true := by decide

/-- R60: exhaustion is reported distinctly from any other failure, by each of the three reads. -/
theorem test_contract_reads_report_eof_and_io_error_apart :
    let src (t : Terminator) : ByteSource :=
      { bytes := Memory.ofBytes [0x93#8], terminator := t, cursor := 0, silentFrom := none }
    [(src .eof).readU8, (src .ioError).readU8].map (Option.map (fun r => (r.1, r.2.cursor))) =
      [some (.ok 0x93#8, 1), some (.ok 0x93#8, 1)] ∧
    [(src .eof).readU16 .little, (src .ioError).readU16 .little].map (Option.map (fun r => (r.1, r.2.cursor))) =
      [some (.eof 1, 0), some (.ioError, 0)] ∧
    [(src .eof).readU32 .big, (src .ioError).readU32 .big].map (Option.map (fun r => (r.1, r.2.cursor))) =
      [some (.eof 1, 0), some (.ioError, 0)] := by decide

/-- Twelve parcels, the most that `RawHoldsFirstParcelLowest` allows, and the last of them. -/
theorem witness_RawHoldsFirstParcelLowest :
    (List.replicate 12 0xffff#16).length ≤ 12 ∧ 11 < (List.replicate 12 0xffff#16).length ∧
      16 * (List.replicate 12 0xffff#16).length ≤ 192 := by decide

/-- The narrowest and the widest field of `ExtensionsReadAsTheSpecSays`. -/
theorem witness_ExtensionsReadAsTheSpecSays : 0 + 1 ≤ 32 ∧ 31 + 1 ≤ 32 := by decide

/-- The four custom opcodes, and another opcode outside the map. -/
theorem witness_OpcodesOutsideTheMapAreMalformed :
    [0x0000000b#32, 0x0000002b#32, 0x0000005b#32, 0xffffff7b#32, 0x00000007#32].map
        (fun w => (w.extractLsb' 0 2, w.extractLsb' 2 3, w.extractLsb' 0 7)) =
      [(3#2, 2#3, 0x0b#7), (3#2, 2#3, 0x2b#7), (3#2, 6#3, 0x5b#7), (3#2, 6#3, 0x7b#7), (3#2, 1#3, 0x07#7)] ∧
    [0x0b#7, 0x2b#7, 0x5b#7, 0x7b#7, 0x07#7].all (fun op =>
      [0b0110111#7, 0b0010111#7, 0b1101111#7, 0b1100111#7, 0b0000011#7, 0b0100011#7, 0b1100011#7, 0b0010011#7,
        0b0110011#7, 0b1110011#7, 0b0001111#7].all (fun known => op != known)) = true := by decide

theorem witness_MalformedExactlyWhenNoArmDecodes :
    decode16 0x8105#16 = none ∧ (0x8105#16).extractLsb' 0 2 = 0b01#2 ∧
    decode32 (cat 32 0x0000#16 0x9067#16) = none ∧ (0x9067#16).extractLsb' 0 2 = 0b11#2 ∧
    (0x9067#16).extractLsb' 2 3 ≠ 0b111#3 ∧ (0x9002#16).extractLsb' 0 2 = 0b10#2 := by decide

end Sys2Proof.Tests
end

section
/-! SUPPORT. What no step touches: the stream, its terminator, the source's answers and the parameters (spec
00_scope.md rule R15, 20_memory.md rule R72, 70_reset_and_hazards.md rule R562), said once: `step_keepsStream`.
And the frame of one instruction's execution (10_state.md rules R22 and R44). -/

namespace Sys2Proof.Proofs

open Sys2Proof.Machine Sys2Proof.Safety

/-- `t` has all that `s` has of what the host fixes for a pass; the source's read cursor may differ (R68). -/
structure KeepsStream (s t : State) : Prop where
  params : t.params = s.params
  bytes : t.source.bytes = s.source.bytes
  terminator : t.source.terminator = s.source.terminator
  silentFrom : t.source.silentFrom = s.source.silentFrom

/-- What is kept fixes every answer of the source. -/
theorem KeepsStream.answerAt {s t : State} (h : KeepsStream s t) (a : Nat) : t.answerAt a = s.answerAt a := by
  simp only [State.answerAt, h.params]
  exact ByteSource.readParcel_congr h.bytes h.terminator h.silentFrom _ _

/-- Of what the host fixes, answered reads touch nothing: in the source they move the cursor alone (R68). -/
theorem afterReads_keepsStream (s : State) (ps : List Parcel) : KeepsStream s (afterReads s ps) := by
  cases ps <;> exact ⟨rfl, rfl, rfl, rfl⟩

/-- An abort keeps what the reads before it kept. -/
theorem afterAbort_keepsStream (s : State) (kind : ErrorKind) (ps : List Parcel) (failing : List ReadRecord)
    (tuple : Option DiagTuple) : KeepsStream s (afterAbort s kind ps failing tuple) :=
  have ⟨hparams, hbytes, hterm, hsilent⟩ := afterReads_keepsStream s ps
  ⟨hparams, hbytes, hterm, hsilent⟩

theorem afterEnd_keepsStream (s : State) : KeepsStream s (afterEnd s) := ⟨rfl, rfl, rfl, rfl⟩

/-- An instruction leaves the parameters and the whole source alone (R15). -/
theorem exec_keeps_params_source {i : Instr} {s t : State} (h : exec i s = .next t) :
    t.params = s.params ∧ t.source = s.source := by
  obtain ⟨c, n, d, he⟩ := exec_delivers i s
  obtain rfl : s.deliver c n d = t := by simpa [he] using h
  exact ⟨State.deliver_params .., State.deliver_source ..⟩

/-- Every kind of step keeps the stream: an instruction, a malformed one, the clean end, a truncation, an I/O
failure. -/
theorem step_keepsStream {s t : State} (h : step s = .next t) : KeepsStream s t := by
  obtain ⟨-, ⟨ps, i, -, -, he⟩ | ⟨ps, u, -, -, rfl⟩ | ⟨-, rfl⟩ | ⟨ps, k, -, -, -, rfl⟩ | ⟨ps, -, -, rfl⟩⟩ :=
    step_cases h
  · obtain ⟨hparams, hsource⟩ := exec_keeps_params_source he
    have hreads := afterReads_keepsStream s ps
    exact ⟨hparams.trans hreads.params, hsource ▸ hreads.bytes, hsource ▸ hreads.terminator,
      hsource ▸ hreads.silentFrom⟩
  · exact afterAbort_keepsStream ..
  · exact afterEnd_keepsStream s
  · exact afterAbort_keepsStream ..
  · exact afterAbort_keepsStream ..

/-- Settles O35: each clause is a part of `step_keepsStream`, the answers by `KeepsStream.answerAt`. -/
theorem streamIsFixedForThePass : Obligations.StreamIsFixedForThePass := by
  intro s t h
  have hk := step_keepsStream h
  exact ⟨hk.params, hk.bytes, hk.terminator, fun a => by rw [hk.bytes], hk.answerAt⟩

/-- Settles O24: every meaning is one `deliver` (`exec_delivers`), whose event is `eventOf`. -/
theorem executionFrame : Obligations.ExecutionFrame := by
  intro i s
  obtain ⟨c, n, d, he⟩ := exec_delivers i s
  exact ⟨s.deliver c n d, he, fun a => by rw [State.deliver_source], State.deliver_source .., State.deliver_params ..,
    State.deliver_status .., State.deliver_reads .., State.deliver_outcome .., s.eventOf c n d,
    State.deliver_events .., State.deliver_ptr .., State.eventOf_parcels ..⟩

end Sys2Proof.Proofs
end

section
/-! SUPPORT. What an instruction's meaning delivers (spec 10_state.md rules R30 to R33 and R44), said once:
`exec_eq_deliver`. Its class and length are those of the encoding the instruction was decoded from
(`framing_of_decode`) and of its own (`encode_classified`); its record presents its operand form
(`recordOf_matchesForm`). -/

namespace Sys2Proof.Proofs

open Sys2Proof.Machine Sys2Proof.Safety

/-- The category and the number of parcels of the event an instruction delivers; of a framed instruction they are
its class's (R441 to R444), and otherwise its encoding is one parcel or two (R101, R102). -/
def framing : Instr → Category × Nat
  | .framedDoubleWord48 _ => (.doubleWord48, 3)
  | .framedQuadWord64 _ => (.quadWord64, 4)
  | .framedExtended [] => (.extended, 0)
  | .framedExtended (p0 :: _) => (.extended, 5 + (lengthField p0).toNat)
  | .framedReserved192 _ => (.reserved192, 12)
  | i => if (encode i).length = 1 then (.compressed16, 1) else (.word32, 2)

/-- Every meaning is one delivery, of the instruction's class, length and record. -/
theorem exec_eq_deliver (i : Instr) (s : State) :
    exec i s = .next (s.deliver (framing i).1 (framing i).2 (recordOf i)) := by
  cases i
  case framedExtended ps => cases ps <;> rfl
  all_goals rfl

/-! ### The record -/

/-- Exactly the two decodable categories carry a record (R30). -/
theorem recordOf_isSome (i : Instr) : (recordOf i).isSome = decide ((framing i).1.code ≤ 1) := by
  cases i
  case framedExtended ps => cases ps <;> rfl
  all_goals rfl

/-- The operand fields a record presents, in operand order (R31). -/
def presentFields (d : Decoded) : List OperandField :=
  (if d.rd.isSome then [.rd] else []) ++ (if d.rs1.isSome then [.rs1] else []) ++
  (if d.rs2.isSome then [.rs2] else []) ++ (if d.imm.isSome then [.imm] else []) ++
  (if d.fence.isSome then [.fence] else [])

/-- A record that presents the list of fields of its mnemonic's form matches the form. -/
theorem matchesForm_of_presentFields {d : Decoded} (h : presentFields d = (formOf d.mnemonic).fields) :
    MatchesForm d := by
  simp only [MatchesForm, ← h, presentFields, List.mem_append]
  refine ⟨?_, ?_, ?_, ?_, ?_⟩ <;> simp

/-- R33: every record presents its mnemonic's operand form. -/
theorem recordOf_matchesForm {i : Instr} {d : Decoded} (h : recordOf i = some d) : MatchesForm d := by
  apply matchesForm_of_presentFields
  cases i
  case framedExtended ps => cases ps <;> cases h
  all_goals cases h
  all_goals rfl

/-! ### The class of a decoded instruction -/

/-- Whatever instruction a resolver answers has the framing `f`. -/
def Resolves (f : Category × Nat) (o : Option Instr) : Prop := ∀ i, o = some i → framing i = f

/-- It does if it does on both sides of a test. -/
theorem Resolves.ite {f : Category × Nat} {p : Prop} [Decidable p] {a b : Option Instr} (ha : Resolves f a)
    (hb : Resolves f b) : Resolves f (if p then a else b) := by
  split
  · exact ha
  · exact hb

/-- Every arm of the 16-bit resolver gives an instruction of one parcel. -/
theorem decode16_resolves (c : Parcel) : Resolves (.compressed16, 1) (decode16 c) := by
  unfold decode16 decodeC0 decodeC1 decodeC1Arith decodeC2 decodeC2Group
  repeat' apply Resolves.ite
  all_goals rintro _ ⟨⟩ <;> rfl

/-- Every arm of the 32-bit resolver gives an instruction of two parcels. -/
theorem decode32_resolves (w : Word) : Resolves (.word32, 2) (decode32 w) := by
  unfold decode32 decodeJalr decodeLoad decodeStore decodeBranch decodeOpImm decodeOp decodeSystem decodePriv
    decodeMiscMem
  repeat' apply Resolves.ite
  all_goals rintro _ ⟨⟩ <;> rfl

/-- The number of parcels that goes with a category; `nnn` is the extended class's length field (R105). -/
theorem classify_snd (p0 : Parcel) :
    (classify p0).2 = match (classify p0).1 with
      | .compressed16 => 1
      | .word32 => 2
      | .doubleWord48 => 3
      | .quadWord64 => 4
      | .extended => 5 + (lengthField p0).toNat
      | .reserved192 => 12 := by
  unfold classify
  split_ifs <;> rfl

@[simp] theorem resolved_eq_instr {t : DiagTuple} {o : Option Instr} {i : Instr} :
    resolved t o = .instr i ↔ o = some i := by
  cases o <;> simp [resolved]

/-- A decoded instruction delivers the class and the length of its first parcel. -/
theorem framing_of_decode {p0 : Parcel} {rest : List Parcel} {i : Instr} (h : decode (p0 :: rest) = .instr i) :
    framing i = classify p0 := by
  have hn := classify_snd p0
  rw [decode] at h
  split at h
  · cases h
  rcases hc : classify p0 with ⟨c, n⟩
  rw [hc] at h hn
  cases c <;> dsimp only at h hn <;> subst hn
  case compressed16 => exact decode16_resolves p0 i (resolved_eq_instr.1 h)
  case word32 =>
    cases rest with
    | nil => cases h
    | cons p1 rest => exact decode32_resolves (wordOf p0 p1) i (resolved_eq_instr.1 h)
  case extended => cases h; simp [Nat.add_comm 5, framing]
  all_goals cases h; rfl

/-! ### The class of an encoded instruction -/

/-- The decoder on the halves of a 32-bit instruction that the resolver knows. -/
theorem decode_halves_of_decode32 {w : Word} {i : Instr} (h1 : (opcode w).extractLsb' 0 2 = 0b11#2)
    (h2 : (opcode w).extractLsb' 2 3 ≠ 0b111#3) (h : decode32 w = some i) : decode (halves w) = .instr i := by
  rw [decode_halves w h1 h2, h, resolved]

/-- The decoder on a 16-bit instruction that the resolver knows; none is of quadrant `11`. -/
theorem decode_parcel_of_decode16 {c : Parcel} {i : Instr} (h : decode16 c = some i) : decode [c] = .instr i := by
  have hq : quadrant c ≠ 0b11#2 := fun hq => by simp [decode16, hq] at h
  rw [decode_parcel c hq, h, resolved]

/-- The decoder on exactly the parcels of one instruction dispatches on its class (R43). -/
theorem decode_eq_decodeAs {p0 : Parcel} {rest : List Parcel} {c : Category} {n : Nat} (hc : classify p0 = (c, n))
    (hn : (p0 :: rest).length = n) : decode (p0 :: rest) = decodeAs p0 (p0 :: rest) c := by
  subst hn
  rw [decode, hc, if_neg (Nat.lt_irrefl _), List.take_length]

theorem framedAs_iff {p : Parcel → Bool} {n : Parcel → Nat} {ps : List Parcel} :
    framedAs p n ps = true ↔ ∃ p0 rest, ps = p0 :: rest ∧ p p0 = true ∧ ps.length = n p0 := by
  cases ps <;> simp [framedAs]

/-- Decoding the encoding of a well-formed instruction gives it back. -/
theorem decode_encode {i : Instr} (h : i.wellFormed = true) : decode (encode i) = .instr i := by
  cases i <;> simp only [Instr.wellFormed, Bool.and_eq_true, bne_iff_ne] at h
  case lui | auipc | jal | jalr | lb | lh | lw | lbu | lhu | sb | sh | sw | beq | bne | blt | bge | bltu | bgeu | addi |
      slti | sltiu | xori | ori | andi | slli | srli | srai | add | sub | sll | slt | sltu | xor | srl | sra | or |
      and | csrrw | csrrs | csrrc | csrrwi | csrrsi | csrrci | ecall | ebreak | uret | sret | mret | wfi | fence |
      fenceI =>
    refine decode_halves_of_decode32 (by simp) (by simp) ?_
    simp [h, decode32, decodeJalr, decodeLoad, decodeStore, decodeBranch, decodeOpImm, decodeOp, decodeSystem,
      decodePriv, decodeMiscMem]
  case framedDoubleWord48 ps =>
    obtain ⟨p0, rest, rfl, hp, hl⟩ := framedAs_iff.1 h
    exact decode_eq_decodeAs (classify_doubleWord48 p0 (by simpa [isDoubleWord48] using hp)) hl
  case framedQuadWord64 ps =>
    obtain ⟨p0, rest, rfl, hp, hl⟩ := framedAs_iff.1 h
    exact decode_eq_decodeAs (classify_quadWord64 p0 (by simpa [isQuadWord64] using hp)) hl
  case framedExtended ps =>
    obtain ⟨p0, rest, rfl, hp, hl⟩ := framedAs_iff.1 h
    simp only [isExtended, Bool.and_eq_true, beq_iff_eq, bne_iff_ne] at hp
    obtain ⟨h7, hn⟩ := hp
    exact decode_eq_decodeAs (classify_extended p0 h7 hn) hl
  case framedReserved192 ps =>
    obtain ⟨p0, rest, rfl, hp, hl⟩ := framedAs_iff.1 h
    simp only [isReserved192, Bool.and_eq_true, beq_iff_eq] at hp
    obtain ⟨h7, hn⟩ := hp
    exact decode_eq_decodeAs (classify_reserved192 p0 h7 hn) hl
  case cSlli64 rd => exact decode_parcel_of_decode16 (by simp [decode16, decodeC2, show cat 6 0#1 0#5 = 0#6 from rfl])
  all_goals
    refine decode_parcel_of_decode16 ?_
    simp [h, decode16, decodeC0, decodeC1, decodeC1Arith, decodeC2, decodeC2Group]

/-- The encoding of a well-formed instruction is as long as the event it delivers. -/
theorem length_encode {i : Instr} (h : i.wellFormed = true) : (encode i).length = (framing i).2 := by
  cases i
  case framedDoubleWord48 | framedQuadWord64 | framedExtended | framedReserved192 =>
    obtain ⟨p0, rest, rfl, -, hl⟩ := framedAs_iff.1 h
    exact hl
  all_goals rfl

/-- The first parcel of a well-formed instruction's encoding announces the event it delivers (R100). -/
theorem encode_classified {i : Instr} (h : i.wellFormed = true) :
    ∃ p0 rest, encode i = p0 :: rest ∧ classify p0 = framing i ∧ (encode i).length = (classify p0).2 := by
  have hd := decode_encode h
  cases he : encode i with
  | nil => rw [he] at hd; cases hd
  | cons p0 rest =>
    rw [he] at hd
    have hc := framing_of_decode hd
    exact ⟨p0, rest, rfl, hc.symm, by rw [← hc, ← length_encode h, he]⟩

/-- Settles O23: `exec_eq_deliver`, with the class and the length of the encoding by `encode_classified`. -/
theorem everyWellFormedInstructionCompletes : Obligations.EveryWellFormedInstructionCompletes := by
  intro i s h
  obtain ⟨p0, rest, he, hc, hl⟩ := encode_classified h
  refine ⟨p0, rest, recordOf i, he, ?_, ?_, fun r => recordOf_matchesForm⟩
  · rw [exec_eq_deliver, deliver_eq_afterEvent, hl, hc]
  · rw [recordOf_isSome, hc, decide_eq_true_iff]

end Sys2Proof.Proofs
end

section
/-! SUPPORT. What one step does (spec 10_state.md rules R40 to R44): the parcels the source presents, or begins, are
determined by its answers; on presented parcels the step is `step_of_presents`, and a step that delivers is
`step_delivers`. -/

namespace Sys2Proof.Proofs

open Sys2Proof.Machine Sys2Proof.Safety

/-! ### The answers determine the parcels -/

/-- A read that is not answered with a parcel comes after every answered one. -/
theorem length_le_of_not_ok {s : State} {a n : Nat} {ps : List Parcel} (h : Answers s a ps)
    (hn : ∀ p, s.answerAt (a + 2 * n) ≠ some (.ok p)) : ps.length ≤ n := by
  by_contra hlt
  exact hn _ (answers_get ps a n (by omega) h)

/-- What a step presents is more than what any failing read leaves begun. -/
theorem begins_shorter {s : State} {ps qs : List Parcel} (hp : Presents s ps) (hb : Begins s qs) :
    qs.length < ps.length := by
  by_contra hle
  obtain ⟨p0, rest, rfl, hl⟩ := hp.whole
  have hpre := answers_prefix _ qs _ hp.answers hb.answers (by omega)
  cases qs with
  | nil => simp at hle
  | cons q0 qs =>
    obtain rfl : p0 = q0 := by simpa using congrArg List.head? hpre
    have := hb.partly p0 qs rfl
    omega

/-- A step's reads present one instruction, and no other. -/
theorem presents_unique {s : State} {ps qs : List Parcel} (hp : Presents s ps) (hq : Presents s qs) : ps = qs := by
  obtain ⟨p0, rest, rfl, hl⟩ := hp.whole
  obtain ⟨q0, rest', rfl, hl'⟩ := hq.whole
  obtain rfl : p0 = q0 := by simpa [hp.answers.1] using hq.answers.1
  have := answers_prefix _ _ _ hp.answers hq.answers (by omega)
  rwa [List.take_of_length_le (by omega)] at this

/-! ### The step on presented parcels -/

/-- The read after what a step begins is answered, if the step presents an instruction. -/
theorem answerAt_of_begins {s : State} {ps qs : List Parcel} (hp : Presents s ps) (hb : Begins s qs) :
    ∃ p, s.answerAt (s.ptr + 2 * qs.length) = some (.ok p) :=
  ⟨_, answers_get ps s.ptr qs.length (begins_shorter hp hb) hp.answers⟩

/-- The reads of a step that presents `ps` end with `ps` in the buffer. -/
theorem fetch_of_presents {s : State} {ps : List Parcel} (h : Presents s ps) :
    fetch s = .complete (afterReads s ps) := by
  have hnil : Begins s [] := ⟨h.running, trivial, nofun⟩
  rcases fetch_cases s h.running with ⟨qs, hq, hf⟩ | ⟨hk, -⟩ | ⟨qs, k, hb, -, hk, -⟩ | ⟨qs, hb, hk, -⟩ | ⟨qs, hb, hk, -⟩
  · rw [hf, presents_unique h hq]
  · obtain ⟨p, hp⟩ := answerAt_of_begins h hnil
    simp [hk] at hp
  all_goals
    obtain ⟨p, hp⟩ := answerAt_of_begins h hb
    simp [hk] at hp

/-- The step on presented parcels is what their decoding says (R41, R43). -/
theorem step_of_presents {s : State} {ps : List Parcel} (h : Presents s ps) :
    step s = runDecoded (afterReads s ps) (decode ps) := by
  simp only [step, h.running, fetch_of_presents h]
  rfl

/-- Settles O25: `step_of_presents` where the parcels decode. -/
theorem stepRunsDecodedInstruction : Obligations.StepRunsDecodedInstruction := by
  intro s ps i h hd
  rw [step_of_presents h, hd, runDecoded]

/-- A decoded instruction is delivered: the step appends its event and moves `ptr` past its parcels (R44). -/
theorem step_delivers {s : State} {ps : List Parcel} {i : Instr} (h : Presents s ps) (hd : decode ps = .instr i) :
    step s = .next ((afterReads s ps).deliver (framing i).1 (framing i).2 (recordOf i)) := by
  rw [step_of_presents h, hd, runDecoded, exec_eq_deliver]

/-- A presented instruction that no arm decodes aborts the pass (R501, R510). -/
theorem step_malformed {s : State} {ps : List Parcel} {u : DiagTuple} (h : Presents s ps)
    (hd : decode ps = .rejected (.malformed u)) : step s = .next (afterAbort s .malformedEncoding ps [] (some u)) := by
  rw [step_of_presents h, hd]
  simp [runDecoded, State.reject, State.abort, State.errorRecord, afterAbort, afterReads, errorOf]

/-- The class of a presented instruction that decodes is the class of its event. -/
theorem framing_of_presents {s : State} {ps : List Parcel} {i : Instr} (h : Presents s ps) (hd : decode ps = .instr i) :
    ∃ p0 rest, ps = p0 :: rest ∧ classify p0 = framing i ∧ (framing i).2 = ps.length := by
  obtain ⟨p0, rest, rfl, hl⟩ := h.whole
  have hc := framing_of_decode hd
  exact ⟨p0, rest, rfl, hc.symm, by rw [hc, hl]⟩

/-- R44, R46: a step delivers the decoded instruction's event, or it ends the pass with no event and `ptr` left. -/
theorem step_delivers_or_ends {s t : State} (h : step s = .next t) :
    (∃ ps i, Presents s ps ∧ decode ps = .instr i ∧
      t = (afterReads s ps).deliver (framing i).1 (framing i).2 (recordOf i)) ∨
    (t.status ≠ .running ∧ t.events = s.events ∧ t.ptr = s.ptr) := by
  obtain ⟨-, ⟨ps, i, hp, hd, he⟩ | ⟨ps, u, -, -, rfl⟩ | ⟨-, rfl⟩ | ⟨ps, k, -, -, -, rfl⟩ | ⟨ps, -, -, rfl⟩⟩ :=
    step_cases h
  · rw [exec_eq_deliver, Host.Outcome.next.injEq] at he
    exact .inl ⟨ps, i, hp, hd, he.symm⟩
  all_goals exact .inr ⟨nofun, rfl, rfl⟩

/-- Settles O36: the two disjuncts are `step_delivers_or_ends`, the class and the length by `framing_of_presents`. -/
theorem ptrAdvancesByTheDeliveredLength : Obligations.PtrAdvancesByTheDeliveredLength := by
  intro s t h
  rcases step_delivers_or_ends h with ⟨ps, i, hp, hd, rfl⟩ | hend
  · obtain ⟨p0, rest, rfl, hc, hl⟩ := framing_of_presents hp hd
    refine .inl ⟨hp.running, _, p0, rest, State.deliver_events .., rfl, rfl, ?_, ?_, rfl⟩
    · rw [hc]
      exact Prod.ext rfl hl
    · rw [hc, State.eventOf_length]
  · exact .inr hend

/-- Settles O37: both steps are `step_of_presents` of the same decoding. -/
theorem sameParcelsSameResult : Obligations.SameParcelsSameResult := by
  intro s t ps hs ht
  rcases decode_whole hs.whole with ⟨i, hi⟩ | ⟨u, hu⟩
  · exact .inl ⟨_, _, ⟨_, step_delivers hs hi, State.deliver_events ..⟩,
      ⟨_, step_delivers ht hi, State.deliver_events ..⟩, rfl⟩
  · exact .inr ⟨_, _, ⟨_, step_malformed hs hu, rfl⟩, ⟨_, step_malformed ht hu, rfl⟩, rfl⟩

/-! ### The steps there are -/

/-- Settles O31: `fetch_cases` names the unanswered read, and after every other end of the reads there is a state. -/
theorem stepsExactlyWhileRunning : Obligations.StepsExactlyWhileRunning := by
  intro s
  refine ⟨fun hr ha => ?_, fun p hs => ?_, fun e hs => ?_⟩
  · rcases fetch_cases s hr with ⟨ps, hp, -⟩ | ⟨-, hf⟩ | ⟨ps, k, -, -, -, hf⟩ | ⟨ps, -, -, hf⟩ | ⟨ps, hb, hk, -⟩
    · rw [step_of_presents hp]
      cases decode ps with
      | instr i => exact ⟨_, exec_eq_deliver i _⟩
      | rejected e => exact ⟨_, rfl⟩
    · exact ⟨_, by simp only [step, hr, hf]; rfl⟩
    · exact ⟨_, by simp only [step, hr, hf]; rfl⟩
    · exact ⟨_, by simp only [step, hr, hf]; rfl⟩
    · exact absurd hk (ha ps hb)
  · simp only [step, hs]
  · simp only [step, hs]

/-- The first read finds no byte left: the step is the clean end (R42). -/
theorem step_at_end {s : State} (hr : s.status = .running) (h : s.answerAt s.ptr = some (.eof 0)) :
    step s = .next (afterEnd s) := by
  have hf : fetch s = .endOfStream (({ s with buffer := [] } : State).noteRead s.ptr (.eof 0)) := by
    have hb : ({ s with buffer := [] } : State).answerAt s.ptr = some (.eof 0) := h
    simp only [fetch, hb]
  simp only [step, hr, hf]
  rfl

/-- Settles O29: `step_at_end`; and of the five ends of a step only the truncation agrees with the exhausted later
read. -/
theorem exhaustionAtABoundaryEndsCleanly : Obligations.ExhaustionAtABoundaryEndsCleanly := by
  intro s hr
  refine ⟨step_at_end hr, fun p0 ps k t hb hk h => ?_⟩
  obtain ⟨-, ⟨qs, i, hp, -⟩ | ⟨qs, u, hp, -⟩ | ⟨h0, -⟩ | ⟨qs, j, -, -, -, rfl⟩ | ⟨qs, hq, hio, -⟩⟩ := step_cases h
  · obtain ⟨p, hok⟩ := answerAt_of_begins hp hb
    rw [hk] at hok
    cases hok
  · obtain ⟨p, hok⟩ := answerAt_of_begins hp hb
    rw [hk] at hok
    cases hok
  · simp [hb.answers.1] at h0
  · exact ⟨_, rfl, rfl⟩
  · have hle := length_le_of_not_ok hb.answers (n := qs.length) (by rw [hio]; nofun)
    have hge := length_le_of_not_ok hq.answers (n := (p0 :: ps).length) (by rw [hk]; nofun)
    rw [show qs.length = (p0 :: ps).length by omega, hk] at hio
    cases hio

end Sys2Proof.Proofs
end

section
/-! SUPPORT. Every step keeps the invariant of a pass (spec 10_state.md rules R44 and R68 to R70): what the logs of
events and of reads look like after an append, what the reads of one step add, and the invariant after each end
of a step. -/

namespace Sys2Proof.Proofs

open Sys2Proof.Machine Sys2Proof.Safety

/-! ### The logs -/

/-- One event more, at the end of the chain. -/
theorem eventsChain_snoc {w : PtrWidth} {e : Event} {p : Nat} (he : e.offset = reportOffset w p) :
    ∀ {es : List Event} {a : Nat}, EventsChain w a es p → EventsChain w a (es ++ [e]) (p + e.length)
  | [], _, rfl => ⟨he, rfl⟩
  | _ :: _, _, ⟨ho, h⟩ => ⟨ho, eventsChain_snoc he h⟩

/-- Reads that go on from the cursor where answered reads ended. -/
theorem readsChain_append {c c' : Nat} {rs' : List ReadRecord} (h' : ReadsChain c rs' c') :
    ∀ {rs : List ReadRecord} {a : Nat}, ReadsChain a rs c → (∀ r ∈ rs, ∃ p, r.answer = .ok p) →
      ReadsChain a (rs ++ rs') c'
  | [], _, rfl, _ => h'
  | r :: rs, a, ⟨ho, h⟩, hok => by
    obtain ⟨p, hp⟩ := hok r List.mem_cons_self
    rw [hp] at h
    have htail := readsChain_append h' h (fun x hx => hok x (List.mem_cons_of_mem _ hx))
    exact ⟨ho, by rw [hp]; exact htail⟩

theorem parcelsRead_append (rs rs' : List ReadRecord) :
    parcelsRead (rs ++ rs') = parcelsRead rs ++ parcelsRead rs' := by
  induction rs with
  | nil => rfl
  | cons r rs ih => cases hr : r.answer <;> simp [parcelsRead, hr, ih]

/-! ### The reads of one step -/

@[simp] theorem parcelsRead_readRecords (ps : List Parcel) (a : Nat) : parcelsRead (readRecords a ps) = ps := by
  induction ps generalizing a with
  | nil => rfl
  | cons p ps ih => simp [readRecords, parcelsRead, ih]

theorem readRecords_ok (ps : List Parcel) (a : Nat) : ∀ r ∈ readRecords a ps, ∃ p, r.answer = .ok p := by
  induction ps generalizing a with
  | nil => nofun
  | cons p ps ih =>
    intro r hr
    rcases List.mem_cons.1 hr with rfl | hr
    · exact ⟨p, rfl⟩
    · exact ih _ r hr

theorem readRecords_chain (ps : List Parcel) (a : Nat) : ReadsChain a (readRecords a ps) (a + 2 * ps.length) := by
  induction ps generalizing a with
  | nil => rfl
  | cons p ps ih =>
    refine ⟨rfl, ?_⟩
    rw [List.length_cons, show a + 2 * (ps.length + 1) = a + 2 + 2 * ps.length by omega]
    exact ih (a + 2)

/-- Parcels that a canonical stream answers are inside it. -/
theorem answers_inStream {s : State} (hw : Memory.wf s.source.bytes = true) :
    ∀ {ps : List Parcel} {a : Nat}, a ≤ s.source.bytes.length → Answers s a ps →
      a + 2 * ps.length ≤ s.source.bytes.length
  | [], _, ha, _ => ha
  | p :: ps, a, _, ⟨h, hs⟩ => by
    have := answers_inStream hw (ByteSource.readParcel_ok_bound hw h) hs
    rw [List.length_cons]
    omega

section afterReads
variable (s : State) (ps : List Parcel)

@[simp] theorem afterReads_params : (afterReads s ps).params = s.params := rfl
@[simp] theorem afterReads_ptr : (afterReads s ps).ptr = s.ptr := rfl
@[simp] theorem afterReads_status : (afterReads s ps).status = s.status := rfl
@[simp] theorem afterReads_outcome : (afterReads s ps).outcome = s.outcome := rfl
@[simp] theorem afterReads_events : (afterReads s ps).events = s.events := rfl
@[simp] theorem afterReads_buffer : (afterReads s ps).buffer = ps := rfl
@[simp] theorem afterReads_reads : (afterReads s ps).reads = s.reads ++ readRecords s.ptr ps := rfl
@[simp] theorem afterReads_bytes : (afterReads s ps).source.bytes = s.source.bytes :=
  (afterReads_keepsStream s ps).bytes

/-- The reads of a step leave the cursor past their parcels, if it began at `ptr` (R68). -/
theorem afterReads_cursor {s : State} (hc : s.source.cursor = s.ptr) :
    (afterReads s ps).source.cursor = s.ptr + 2 * ps.length := by
  cases ps with
  | nil => exact hc
  | cons p ps => rfl

end afterReads

/-! ### The invariant after each end of a step -/

/-- What the invariant says of the outcome port, the cursor and the reads while the pass runs. -/
theorem inv_running {s : State} (hi : Inv s) (hr : s.status = .running) :
    s.outcome = none ∧ s.source.cursor = s.ptr ∧ ∀ r ∈ s.reads, ∃ p, r.answer = .ok p := by
  simpa [StatusOk, hr] using hi.status

/-- The reads of one step, with a failing read at their end or without, go on from the reads before it. -/
theorem inv_readsChain {s : State} (hi : Inv s) (hr : s.status = .running) (ps : List Parcel)
    {failing : List ReadRecord} (hf : ReadsChain (s.ptr + 2 * ps.length) failing (s.ptr + 2 * ps.length)) :
    ReadsChain 0 (s.reads ++ readRecords s.ptr ps ++ failing) (s.ptr + 2 * ps.length) := by
  obtain ⟨-, hc, hok⟩ := inv_running hi hr
  have hold : ReadsChain 0 s.reads s.ptr := hc ▸ hi.readsChain
  rw [List.append_assoc]
  exact readsChain_append (readsChain_append hf (readRecords_chain ps s.ptr) (readRecords_ok ps s.ptr)) hold hok

/-- The parcels read up to the end of a step: those of the events before it, and then its own. -/
theorem inv_parcelsRead {s : State} (hi : Inv s) (hr : s.status = .running) (ps : List Parcel)
    (failing : List ReadRecord) (hf : parcelsRead failing = []) :
    parcelsRead (s.reads ++ readRecords s.ptr ps ++ failing) = s.events.flatMap (fun e => e.parcels) ++ ps := by
  have hold := hi.conserved
  rw [hr, abortedParcels, List.append_nil] at hold
  rw [parcelsRead_append, parcelsRead_append, hold, hf, parcelsRead_readRecords, List.append_nil]

/-- The event of a presented instruction that decodes is consistent (R29 to R31). -/
theorem eventOk_of_presents {s : State} {ps : List Parcel} {i : Instr} (hp : Presents s ps)
    (hd : decode ps = .instr i) :
    EventOk ((afterReads s ps).eventOf (framing i).1 (framing i).2 (recordOf i)) := by
  obtain ⟨p0, rest, rfl, hc, hl⟩ := framing_of_presents hp hd
  refine ⟨⟨p0, rest, rfl, ?_⟩, ?_, rfl, ?_, fun d => recordOf_matchesForm⟩
  · rw [hc]
    exact Prod.ext rfl hl
  · rw [State.eventOf_length, hl]; rfl
  · rw [State.eventOf_decoded, recordOf_isSome, decide_eq_true_iff]; rfl

/-- A delivering step keeps the invariant: its parcels go from the reads into its event. -/
theorem inv_deliver {s : State} {ps : List Parcel} {i : Instr} (hi : Inv s) (hp : Presents s ps)
    (hd : decode ps = .instr i) :
    Inv ((afterReads s ps).deliver (framing i).1 (framing i).2 (recordOf i)) := by
  have hr := hp.running
  obtain ⟨ho, hc, hok⟩ := inv_running hi hr
  obtain ⟨-, -, -, -, hl⟩ := framing_of_presents hp hd
  have hin := answers_inStream hi.canonical hi.inStream hp.answers
  have heven := hi.even
  constructor
  case canonical => simpa using hi.canonical
  case even => simp; omega
  case inStream => simpa [hl] using hin
  case bufferEmpty => rfl
  case eventsChain => exact eventsChain_snoc rfl hi.eventsChain
  case eventsOk =>
    intro e he
    rcases List.mem_append.1 he with he | he
    · exact hi.eventsOk e he
    · rw [List.mem_singleton.1 he]
      exact eventOk_of_presents hp hd
  case readsChain =>
    simpa [afterReads_cursor ps hc] using inv_readsChain hi hr ps (failing := []) rfl
  case conserved =>
    simpa [hr, abortedParcels] using inv_parcelsRead hi hr ps [] rfl
  case status =>
    simp only [StatusOk, State.deliver_status, afterReads_status, hr]
    refine ⟨ho, by simp [afterReads_cursor ps hc, hl], fun r hrs => ?_⟩
    rcases List.mem_append.1 hrs with hrs | hrs
    · exact hok r hrs
    · exact readRecords_ok ps s.ptr r hrs

/-- An abort keeps the invariant: its parcels go from the reads into the error record. -/
theorem inv_abort {s : State} (hi : Inv s) (hr : s.status = .running) (kind : ErrorKind) (ps : List Parcel)
    (failing : List ReadRecord) (tuple : Option DiagTuple)
    (hf : ReadsChain (s.ptr + 2 * ps.length) failing (s.ptr + 2 * ps.length)) (hn : parcelsRead failing = []) :
    Inv (afterAbort s kind ps failing tuple) := by
  obtain ⟨-, hc, -⟩ := inv_running hi hr
  have hcur : (afterAbort s kind ps failing tuple).source.cursor = s.ptr + 2 * ps.length := afterReads_cursor ps hc
  have hbytes : (afterAbort s kind ps failing tuple).source.bytes = s.source.bytes := afterReads_bytes s ps
  constructor
  case canonical => rw [hbytes]; exact hi.canonical
  case even => exact hi.even
  case inStream => rw [hbytes]; exact hi.inStream
  case bufferEmpty => rfl
  case eventsChain => exact hi.eventsChain
  case eventsOk => exact hi.eventsOk
  case readsChain => rw [hcur]; exact inv_readsChain hi hr ps hf
  case conserved => exact inv_parcelsRead hi hr ps failing hn
  case status => exact ⟨rfl, rfl⟩

/-- The clean end keeps the invariant: the stream holds no byte past `ptr`. -/
theorem inv_finish {s : State} (hi : Inv s) (hr : s.status = .running) (h0 : s.answerAt s.ptr = some (.eof 0)) :
    Inv (afterEnd s) := by
  obtain ⟨-, hc, -⟩ := inv_running hi hr
  have hlast : s.source.bytes.length ≤ s.ptr := ByteSource.readParcel_eof_zero hi.canonical h0
  constructor
  case canonical => exact hi.canonical
  case even => exact hi.even
  case inStream => exact hi.inStream
  case bufferEmpty => rfl
  case eventsChain => exact hi.eventsChain
  case eventsOk => exact hi.eventsOk
  case readsChain =>
    have := inv_readsChain hi hr [] (failing := [⟨s.ptr, .eof 0⟩]) ⟨rfl, rfl, rfl⟩
    simpa [readRecords, afterEnd, hc] using this
  case conserved => simpa [readRecords, afterEnd, abortedParcels] using inv_parcelsRead hi hr [] [⟨s.ptr, .eof 0⟩] rfl
  case status => exact ⟨rfl, rfl, Nat.le_antisymm hi.inStream hlast⟩

/-- Settles O33: one lemma for each end of a step, over the five cases of `step_cases`. -/
theorem stepKeepsPassInvariant : Obligations.StepKeepsPassInvariant := by
  intro s t hi h
  obtain ⟨hr, ⟨ps, i, hp, hd, he⟩ | ⟨ps, u, -, -, rfl⟩ | ⟨h0, rfl⟩ | ⟨ps, k, -, -, -, rfl⟩ | ⟨ps, -, -, rfl⟩⟩ :=
    step_cases h
  · rw [exec_eq_deliver, Host.Outcome.next.injEq] at he
    exact he ▸ inv_deliver hi hp hd
  · exact inv_abort hi hr _ ps [] _ rfl rfl
  · exact inv_finish hi hr h0
  · exact inv_abort hi hr _ ps _ _ ⟨rfl, rfl, rfl⟩ rfl
  · exact inv_abort hi hr _ ps _ _ ⟨rfl, rfl, rfl⟩ rfl

end Sys2Proof.Proofs
end

section
/-! SUPPORT. Whole passes (spec 10_state.md rules R41 to R46): an answering pass ends (`pass_ends`), and a pass over the
encodings of a program delivers it back (`run_encodings`). -/

namespace Sys2Proof.Proofs

open Sys2Proof.Machine Sys2Proof.Safety

/-- One step, and then the others. -/
theorem run_succ {s t : State} (h : step s = .next t) (k : Nat) :
    Sys2Proof.core.run (k + 1) s = Sys2Proof.core.run k t := by
  have h' : Sys2Proof.core.step s = .next t := h
  simp only [Host.Core.run, h']

/-! ### A pass ends -/

/-- A source that is never silent answers every read. -/
theorem answerAt_ne_none {s : State} (h : AnswersAll s) (a : Nat) : s.answerAt a ≠ none := by
  unfold AnswersAll at h
  cases hb : Memory.bytesFrom s.source.bytes a 2 <;> cases ht : s.source.terminator <;>
    simp [State.answerAt, ByteSource.readParcel, ByteSource.readValue, ByteSource.memRead, ByteSource.silentAt, h, hb,
      ht]

/-- A step after which a canonical pass still runs took at least two bytes of the stream. -/
theorem step_takes_bytes {s t : State} (hw : Memory.wf s.source.bytes = true) (h : step s = .next t)
    (hr : t.status = .running) : s.ptr + 2 ≤ s.source.bytes.length ∧ s.ptr + 2 ≤ t.ptr := by
  rcases step_delivers_or_ends h with ⟨ps, i, hp, hd, rfl⟩ | ⟨hend, -⟩
  · obtain ⟨p0, rest, rfl, -, hl⟩ := framing_of_presents hp hd
    refine ⟨ByteSource.readParcel_ok_bound hw hp.answers.1, ?_⟩
    simp only [State.deliver_ptr, afterReads_ptr, hl, List.length_cons]
    omega
  · exact absurd hr hend

/-- A running pass with at most `2n + 1` bytes left ends within `n + 1` steps. -/
theorem pass_ends (n : Nat) : ∀ s : State, s.status = .running → Memory.wf s.source.bytes = true → AnswersAll s →
    (s.source.bytes.length - s.ptr) / 2 ≤ n →
    ∃ k t, k ≤ n + 1 ∧ Sys2Proof.core.run k s = .next t ∧ t.status ≠ .running := by
  induction n with
  | zero =>
    intro s hr hw ha hn
    obtain ⟨t, ht⟩ := (stepsExactlyWhileRunning s).1 hr fun _ _ => answerAt_ne_none ha _
    refine ⟨1, t, Nat.le_refl _, run_succ ht 0, fun hrt => ?_⟩
    obtain ⟨hlen, -⟩ := step_takes_bytes hw ht hrt
    omega
  | succ n ih =>
    intro s hr hw ha hn
    obtain ⟨t, ht⟩ := (stepsExactlyWhileRunning s).1 hr fun _ _ => answerAt_ne_none ha _
    by_cases hrt : t.status = .running
    · obtain ⟨hlen, hptr⟩ := step_takes_bytes hw ht hrt
      have hk := step_keepsStream ht
      obtain ⟨k, u, hkn, hu, hend⟩ := ih t hrt (by rw [hk.bytes]; exact hw) (hk.silentFrom.trans ha)
        (by rw [hk.bytes]; omega)
      exact ⟨k + 1, u, by omega, by rw [run_succ ht, hu], hend⟩
    · exact ⟨1, t, by omega, run_succ ht 0, hrt⟩

/-- Settles O39: `pass_ends` with the bytes left. -/
theorem everyPassEnds : Obligations.EveryPassEnds := by
  intro s hr hw ha
  exact pass_ends _ s hr hw ha (Nat.le_refl _)

/-! ### A stream of parcels -/

theorem answers_append {s : State} {qs : List Parcel} : ∀ {ps : List Parcel} {a : Nat},
    Answers s a (ps ++ qs) ↔ Answers s a ps ∧ Answers s (a + 2 * ps.length) qs
  | [], a => by simp [Answers]
  | p :: ps, a => by
    rw [List.cons_append, Answers, Answers, answers_append, and_assoc, List.length_cons,
      show a + 2 * (ps.length + 1) = a + 2 + 2 * ps.length by omega]

/-- The pass runs, and from `ptr` on the stream is the parcels `ps` and then the clean end. -/
structure StandsBefore (s : State) (ps : List Parcel) : Prop where
  running : s.status = .running
  answers : Answers s s.ptr ps
  ends : s.answerAt (s.ptr + 2 * ps.length) = some (.eof 0)

/-- The read of a parcel whose bytes the stream holds. -/
theorem readParcel_ofBytes {src : ByteSource} {pre rest : List Byte} {o : ByteOrder} {p : Parcel}
    (hb : src.bytes = Memory.ofBytes (pre ++ (bytesOfParcel o p ++ rest))) (hs : src.silentFrom = none) :
    src.readParcel o pre.length = some (.ok p) := by
  have hbytes := Memory.bytesFrom_ofBytes (pre ++ (bytesOfParcel o p ++ rest)) 2 pre.length (by simp)
  rw [List.drop_left, List.take_left' (length_bytesOfParcel o p), ← hb] at hbytes
  simp [ByteSource.readParcel, ByteSource.readValue, ByteSource.memRead, ByteSource.silentAt, hs, hbytes]

/-- The read at the end of a stream that ends cleanly. -/
theorem readParcel_at_end {src : ByteSource} {bytes : List Byte} {o : ByteOrder}
    (hb : src.bytes = Memory.ofBytes bytes) (hs : src.silentFrom = none) (ht : src.terminator = .eof) :
    src.readParcel o bytes.length = some (.eof 0) := by
  have hshort := Memory.bytesFrom_ofBytes_short bytes 2 bytes.length (by omega) (by omega)
  simp [ByteSource.readParcel, ByteSource.readValue, ByteSource.memRead, ByteSource.silentAt, hs, ht, hb, hshort,
    Memory.available_ofBytes]

theorem length_flatMap_bytesOfParcel (o : ByteOrder) (ps : List Parcel) :
    (ps.flatMap (bytesOfParcel o)).length = 2 * ps.length := by
  simp [List.length_flatMap, Nat.mul_comm]

/-- The parcels whose bytes a stream holds after `pre` are the answers to the reads there. -/
theorem answers_ofBytes {s : State} (hs : s.source.silentFrom = none) (ps : List Parcel) : ∀ pre : List Byte,
    s.source.bytes = Memory.ofBytes (pre ++ ps.flatMap (bytesOfParcel s.params.byteOrder)) →
    Answers s pre.length ps := by
  induction ps with
  | nil => intro pre _; trivial
  | cons p ps ih =>
    intro pre hb
    rw [List.flatMap_cons] at hb
    refine ⟨readParcel_ofBytes hb hs, ?_⟩
    have hrest := ih (pre ++ bytesOfParcel s.params.byteOrder p) (by rw [hb, List.append_assoc])
    rwa [List.length_append, length_bytesOfParcel] at hrest

/-- A new pass stands before the parcels of the stream that the host presents. -/
theorem startPass_standsBefore (params : Params) (ps : List Parcel) :
    StandsBefore (startPass params (ps.flatMap (bytesOfParcel params.byteOrder)) .eof none) ps where
  running := rfl
  answers := answers_ofBytes rfl ps [] rfl
  ends := by
    have h := readParcel_at_end (o := params.byteOrder)
      (src := (startPass params (ps.flatMap (bytesOfParcel params.byteOrder)) .eof none).source) rfl rfl rfl
    rw [length_flatMap_bytesOfParcel] at h
    rw [show (startPass params (ps.flatMap (bytesOfParcel params.byteOrder)) .eof none).ptr = 0 from rfl, Nat.zero_add]
    exact h

/-! ### A stream of encodings -/

/-- Before the encoding of a well-formed instruction the step delivers its parcels and its record, and the pass then
stands before what follows. -/
theorem step_before_encoding {s : State} {i : Instr} {ps : List Parcel} (h : i.wellFormed = true)
    (hs : StandsBefore s (encode i ++ ps)) :
    ∃ t, step s = .next t ∧ StandsBefore t ps ∧ t.ptr = s.ptr + 2 * (encode i).length ∧
      ∃ e, t.events = s.events ++ [e] ∧ e.parcels = encode i ∧ e.decoded = recordOf i := by
  obtain ⟨p0, rest, he, -, hl⟩ := encode_classified h
  obtain ⟨ha, hrest⟩ := answers_append.1 hs.answers
  have hp : Presents s (encode i) := ⟨hs.running, ha, p0, rest, he, hl⟩
  have ht := step_delivers hp (decode_encode h)
  have hk := step_keepsStream ht
  have hptr : ((afterReads s (encode i)).deliver (framing i).1 (framing i).2 (recordOf i)).ptr =
      s.ptr + 2 * (encode i).length := by
    rw [State.deliver_ptr, afterReads_ptr, length_encode h]
  refine ⟨_, ht, ⟨hs.running, ?_, ?_⟩, hptr, _, State.deliver_events ..,
    State.eventOf_parcels .., State.eventOf_decoded ..⟩
  · rw [hptr]
    exact (answers_congr hk.answerAt ps _).2 hrest
  · have hend := hs.ends
    rw [List.length_append, Nat.mul_add, ← Nat.add_assoc] at hend
    rw [hptr, hk.answerAt, hend]

/-- A pass that stands before the encodings of well-formed instructions delivers them one by one and ends cleanly. -/
theorem run_encodings (is : List Instr) : ∀ s : State, (∀ i ∈ is, i.wellFormed = true) →
    StandsBefore s (is.flatMap encode) →
    ∃ t : State, Sys2Proof.core.run (is.length + 1) s = .next t ∧
      t.outcome = some (.done (s.ptr + 2 * (is.flatMap encode).length)) ∧
      t.events.map (fun e => e.parcels) = s.events.map (fun e => e.parcels) ++ is.map encode ∧
      t.events.map (fun e => e.decoded) = s.events.map (fun e => e.decoded) ++ is.map recordOf := by
  induction is with
  | nil =>
    intro s _ hs
    exact ⟨afterEnd s, run_succ (step_at_end hs.running hs.ends) 0, rfl, by simp [afterEnd], by simp [afterEnd]⟩
  | cons i is ih =>
    intro s hw hs
    rw [List.flatMap_cons] at hs
    obtain ⟨t, ht, htb, hptr, e, hev, hpar, hrec⟩ := step_before_encoding (hw i List.mem_cons_self) hs
    obtain ⟨u, hu, hout, hp, hd⟩ := ih t (fun j hj => hw j (List.mem_cons_of_mem i hj)) htb
    refine ⟨u, by rw [List.length_cons, run_succ ht, hu], ?_, ?_, ?_⟩
    · rw [hout, hptr, List.flatMap_cons, List.length_append, Nat.mul_add, Nat.add_assoc]
    · rw [hp, hev]; simp [hpar]
    · rw [hd, hev]; simp [hrec]

/-- Settles O40: `run_encodings` from the start of the pass, whose stream is the encodings' parcels. -/
theorem streamOfEncodingsIsDecodedBack : Obligations.StreamOfEncodingsIsDecodedBack := by
  intro params is hw
  have hbytes : is.flatMap (encodeBytes params.byteOrder) =
      (is.flatMap encode).flatMap (bytesOfParcel params.byteOrder) := by
    rw [List.flatMap_assoc]; rfl
  rw [hbytes]
  obtain ⟨t, hrun, hout, hp, hd⟩ := run_encodings is _ hw (startPass_standsBefore params (is.flatMap encode))
  exact ⟨t, hrun, by simpa [startPass, State.reset] using hout, hp, hd⟩

end Sys2Proof.Proofs
end

section
/-! SUPPORT. The byte source's answers (spec 20_memory.md rules R60 to R68 and R80): the bytes and parcels of a wider value,
what `MemRead` answers on the stream of a byte list (`memRead_ofBytes`), and how the parcel read and the reads
of the contract pass that answer on. -/

namespace Sys2Proof.Proofs

open Sys2Proof.Machine Sys2Proof.Safety

/-! ### Values put together from bytes and parcels -/

/-- Shifting a value up to make room for another concatenates them (R12). -/
theorem shiftLeft_or_setWidth_eq_cat {w m : Nat} (v : BitVec w) (b : BitVec m) :
    v <<< m ||| b.setWidth w = cat w v b := by
  apply BitVec.eq_of_getLsbD_eq
  intro k hk
  by_cases h : k < m
  · simp [getLsbD_cat, hk, h, -BitVec.getLsbD_eq_getElem]
  · simp [getLsbD_cat, hk, h, BitVec.getLsbD_of_ge b k (by omega), -BitVec.getLsbD_eq_getElem]

/-- Concatenation is associative where the inner width on the left keeps all the bits that the outer one asks for. -/
theorem cat_assoc {w v n m l : Nat} (a : BitVec n) (b : BitVec m) (c : BitVec l) (h : w ≤ v + l) :
    cat w (cat v a b) c = cat w a (cat (m + l) b c) := by
  apply BitVec.eq_of_getLsbD_eq
  intro k hk
  simp only [getLsbD_cat, hk, decide_true, Bool.true_and]
  by_cases hl : k < l
  · simp [hl, show k < m + l by omega]
  · by_cases hm : k - l < m
    · simp [hl, hm, show k < m + l by omega, show k - l < v by omega]
    · simp [hl, hm, show ¬ k < m + l by omega, show k - l < v by omega, show k - l - m = k - (m + l) by omega]

/-- Nothing above a value is the value. -/
theorem zero_cat {w n : Nat} (v : BitVec w) : cat w 0#n v = v := by
  apply BitVec.eq_of_getLsbD_eq
  intro k hk
  simp [getLsbD_cat, hk, -BitVec.getLsbD_eq_getElem]

/-- In the order little each byte stands below those that follow it (R63). -/
theorem combineBytes_little_cons (w : Nat) (b : Byte) (bs : List Byte) :
    combineBytes w .little (b :: bs) = cat w (combineBytes w .little bs) b :=
  shiftLeft_or_setWidth_eq_cat (combineBytes w .little bs) b

/-- The order big is the order little of the reversed bytes. -/
theorem combineBytes_big_four (b0 b1 b2 b3 : Byte) :
    combineBytes 32 .big [b0, b1, b2, b3] = combineBytes 32 .little [b3, b2, b1, b0] := rfl

theorem combineBytes_one (o : ByteOrder) (b : Byte) : combineBytes 8 o [b] = b := by
  cases o <;> exact (combineBytes_little_cons 8 b []).trans (zero_cat b)

theorem combineBytes_little_two (b0 b1 : Byte) : combineBytes 16 .little [b0, b1] = cat 16 b1 b0 :=
  combineBytes_two .little b0 b1

/-- Four bytes in the order little, the first one lowest. -/
theorem combineBytes_little_four (b0 b1 b2 b3 : Byte) :
    combineBytes 32 .little [b0, b1, b2, b3] = cat 32 b3 (cat 24 b2 (cat 16 b1 b0)) :=
  calc combineBytes 32 .little [b0, b1, b2, b3]
    _ = cat 32 (cat 32 (cat 32 (cat 32 0#32 b3) b2) b1) b0 := by simp only [combineBytes_little_cons]; rfl
    _ = cat 32 (cat 32 (cat 32 0#32 b3) b2) (cat 16 b1 b0) := cat_assoc _ _ _ (by omega)
    _ = cat 32 (cat 32 0#32 b3) (cat 24 b2 (cat 16 b1 b0)) := cat_assoc _ _ _ (by omega)
    _ = cat 32 0#32 (cat 32 b3 (cat 24 b2 (cat 16 b1 b0))) := cat_assoc _ _ _ (by omega)
    _ = cat 32 b3 (cat 24 b2 (cat 16 b1 b0)) := zero_cat _

/-- Four bytes in the order little are two parcels, the second above the first (R64). -/
theorem combineBytes_little_four_eq_cat_parcels (b0 b1 b2 b3 : Byte) :
    combineBytes 32 .little [b0, b1, b2, b3] =
      cat 32 (combineBytes 16 .little [b2, b3]) (combineBytes 16 .little [b0, b1]) := by
  rw [combineBytes_little_four, combineBytes_little_two, combineBytes_little_two]
  exact (cat_assoc (w := 32) (v := 16) b3 b2 (cat 16 b1 b0) (by omega)).symm

/-! ### `raw` -/

/-- The first parcel stands below the others (R65). -/
theorem rawOf_cons (p : Parcel) (ps : List Parcel) : rawOf (p :: ps) = cat 192 (rawOf ps) p :=
  shiftLeft_or_setWidth_eq_cat (rawOf ps) p

/-- Each bit of the container is a bit of the parcel that its position names, and 0 above the last parcel. -/
theorem getLsbD_rawOf (ps : List Parcel) : ∀ j, j < 192 →
    (rawOf ps).getLsbD j = (ps.getD (j / 16) 0#16).getLsbD (j % 16) := by
  induction ps with
  | nil => intro j _; simp [rawOf]
  | cons p ps ih =>
    intro j hj
    rw [rawOf_cons, getLsbD_cat]
    by_cases h : j < 16
    · simp [h, hj, Nat.div_eq_of_lt h, Nat.mod_eq_of_lt h, -BitVec.getLsbD_eq_getElem]
    · have hdiv : j / 16 = (j - 16) / 16 + 1 := by omega
      have hmod : (j - 16) % 16 = j % 16 := by omega
      simp [h, hj, ih (j - 16) (by omega), hdiv, hmod, -BitVec.getLsbD_eq_getElem]

/-- Settles O50: both clauses read off `getLsbD_rawOf`. -/
theorem rawHoldsFirstParcelLowest : Obligations.RawHoldsFirstParcelLowest := by
  intro ps hps
  refine ⟨fun k hk => ?_, fun j hj => ?_⟩
  · apply BitVec.eq_of_getLsbD_eq
    intro i hi
    have hdiv : (16 * k + i) / 16 = k := by omega
    have hmod : (16 * k + i) % 16 = i := by omega
    rw [BitVec.getLsbD_extractLsb', getLsbD_rawOf ps _ (by omega), hdiv, hmod]
    simp [hi, hk, -BitVec.getLsbD_eq_getElem]
  · by_cases h : j < 192
    · rw [getLsbD_rawOf ps j h, List.getD_eq_default _ _ (by omega), BitVec.getLsbD_zero]
    · exact BitVec.getLsbD_of_ge _ _ (by omega)

/-! ### `MemRead` -/

/-- What a terminator answers to a read that the stream's end cuts off with `k` bytes left (R61). -/
def endAnswer {α : Type} (t : Terminator) (k : Nat) : SourceAnswer α :=
  match t with
  | .eof => .eof k
  | .ioError => .ioError

section memRead
variable {src : ByteSource} {bytes : List Byte} {a n w : Nat} {o : ByteOrder}

theorem silentAt_eq_false (h : src.silentFrom = none) (a : Nat) : src.silentAt a = false := by
  simp [ByteSource.silentAt, h]

theorem memRead_of_silent (h : src.silentAt a = true) (n : Nat) : src.memRead a n = none := by
  simp [ByteSource.memRead, h]

/-- On the stream of a byte list a read has its bytes where the list does, and else the terminator's answer (R61). -/
theorem memRead_ofBytes (hb : src.bytes = Memory.ofBytes bytes) (hs : src.silentAt a = false) (hn : 0 < n) :
    src.memRead a n =
      some (if a + n ≤ bytes.length then .ok ((bytes.drop a).take n)
        else endAnswer src.terminator (bytes.length - a)) := by
  by_cases h : a + n ≤ bytes.length
  · simp [ByteSource.memRead, hs, hb, Memory.bytesFrom_ofBytes bytes n a h, h]
  · have hleft : min n (bytes.length - a) = bytes.length - a := by omega
    cases ht : src.terminator <;>
      simp [ByteSource.memRead, hs, hb, Memory.bytesFrom_ofBytes_short bytes n a hn (by omega), h, ht, endAnswer,
        Memory.available_ofBytes, hleft]

/-- A read is answered with bytes exactly if the source is not silent there and the stream holds them. -/
theorem memRead_eq_ok_iff {bs : List Byte} : src.memRead a n = some (.ok bs) ↔
    src.silentAt a = false ∧ Memory.bytesFrom src.bytes a n = some bs := by
  cases hs : src.silentAt a <;> cases hb : Memory.bytesFrom src.bytes a n <;> cases ht : src.terminator <;>
    simp [ByteSource.memRead, hs, hb, ht]

/-! ### The reads made of it -/

theorem readValue_of_none (h : src.memRead a n = none) : src.readValue w o a n = none := by
  simp [ByteSource.readValue, h]

/-- Bytes are combined by the byte order (R63). -/
theorem readValue_of_ok {bs : List Byte} (h : src.memRead a n = some (.ok bs)) :
    src.readValue w o a n = some (.ok (combineBytes w o bs)) := by
  simp [ByteSource.readValue, h]

theorem readValue_of_eof {k : Nat} (h : src.memRead a n = some (.eof k)) :
    src.readValue w o a n = some (.eof k) := by
  simp [ByteSource.readValue, h]

theorem readValue_of_ioError (h : src.memRead a n = some .ioError) :
    src.readValue w o a n = some .ioError := by
  simp [ByteSource.readValue, h]

/-- A value that was read is the bytes of an answered `MemRead`. -/
theorem memRead_of_readValue_ok {v : BitVec w} (h : src.readValue w o a n = some (.ok v)) :
    ∃ bs, src.memRead a n = some (.ok bs) ∧ combineBytes w o bs = v := by
  unfold ByteSource.readValue at h
  split at h
  case h_2 bs hm => exact ⟨bs, hm, by simpa using h⟩
  all_goals cases h

theorem readNext_of_none (h : src.memRead src.cursor n = none) : src.readNext w o n = none := by
  simp [ByteSource.readNext, readValue_of_none h]

/-- A contract read that has its bytes moves the cursor past them (R60, R68). -/
theorem readNext_of_ok {bs : List Byte} (h : src.memRead src.cursor n = some (.ok bs)) :
    src.readNext w o n = some (.ok (combineBytes w o bs), { src with cursor := src.cursor + n }) := by
  simp [ByteSource.readNext, readValue_of_ok h, ByteSource.advance]

/-- A contract read that the terminator answers leaves the source. -/
theorem readNext_of_endAnswer {k : Nat}
    (h : src.memRead src.cursor n = some (endAnswer src.terminator k)) :
    src.readNext w o n = some (endAnswer src.terminator k, src) := by
  cases ht : src.terminator <;> rw [ht, endAnswer] at h
  · simp [ByteSource.readNext, readValue_of_eof h, endAnswer]
  · simp [ByteSource.readNext, readValue_of_ioError h, endAnswer]

/-! ### The contract's reads on the stream of a byte list -/

/-- A contract read with enough bytes left at the cursor. -/
theorem readNext_ofBytes (hb : src.bytes = Memory.ofBytes bytes) (hs : src.silentAt src.cursor = false)
    {bs rest : List Byte} (hbs : bs ≠ []) (hleft : bytes.drop src.cursor = bs ++ rest) :
    src.readNext w o bs.length =
      some (.ok (combineBytes w o bs), { src with cursor := src.cursor + bs.length }) := by
  have hpos : 0 < bs.length := List.length_pos_of_ne_nil hbs
  have hlen : src.cursor + bs.length ≤ bytes.length := by
    have := congrArg List.length hleft
    rw [List.length_drop, List.length_append] at this
    omega
  apply readNext_of_ok
  rw [memRead_ofBytes hb hs hpos, if_pos hlen, hleft, List.take_left]

/-- A contract read with too few bytes left at the cursor. -/
theorem readNext_ofBytes_short (hb : src.bytes = Memory.ofBytes bytes)
    (hs : src.silentAt src.cursor = false) (hn : (bytes.drop src.cursor).length < n) :
    src.readNext w o n = some (endAnswer src.terminator (bytes.drop src.cursor).length, src) := by
  rw [List.length_drop] at hn ⊢
  apply readNext_of_endAnswer
  rw [memRead_ofBytes hb hs (by omega), if_neg (by omega)]

end memRead

/-- Settles O47: `memRead_ofBytes` on a source that is nowhere silent. -/
theorem memReadAnswersFromTheStream : Obligations.MemReadAnswersFromTheStream := by
  intro bytes src a n hb hs hn
  exact memRead_ofBytes hb (silentAt_eq_false hs a) hn

/-- Settles O48: the read passes each answer of `MemRead` on, and `step_keepsStream` keeps the byte order. -/
theorem readParcelCombinesByByteOrder : Obligations.ReadParcelCombinesByByteOrder := by
  refine ⟨fun src a b0 b1 h => ⟨?_, ?_⟩, fun src o a k h => readValue_of_eof h,
    fun src o a h => readValue_of_ioError h, fun s t h => by rw [(step_keepsStream h).params]⟩
  · rw [← combineBytes_little_two b0 b1]
    exact readValue_of_ok h
  · rw [← combineBytes_little_two b1 b0]
    exact readValue_of_ok h

/-- Settles O57: one lemma for enough bytes, one for too few and one for silence, at each of the three widths. -/
theorem contractReadsAnswerInThreeWays : Obligations.ContractReadsAnswerInThreeWays := by
  intro bytes src o hb left exhausted
  refine ⟨fun hs => ⟨fun b rest hl => ?_, fun b0 b1 rest hl => ?_, fun b0 b1 b2 b3 rest hl => ?_, ?_, ?_, ?_⟩,
    fun hs => ⟨?_, ?_, ?_⟩, (ByteSource.readNext_answer src 16 o 2).symm⟩
  · have h := readNext_ofBytes (w := 8) (o := .little) (bs := [b]) hb hs (by simp) hl
    rwa [combineBytes_one] at h
  · have h := readNext_ofBytes (w := 16) (o := o) (bs := [b0, b1]) hb hs (by simp) hl
    rw [combineBytes_two] at h
    cases o <;> exact h
  · have h := readNext_ofBytes (w := 32) (o := o) (bs := [b0, b1, b2, b3]) hb hs (by simp) hl
    cases o with
    | little => rwa [combineBytes_little_four] at h
    | big => rwa [combineBytes_big_four, combineBytes_little_four] at h
  · exact readNext_ofBytes_short hb hs
  · exact readNext_ofBytes_short hb hs
  · exact readNext_ofBytes_short hb hs
  all_goals exact readNext_of_none (memRead_of_silent hs _)

/-! ### Two parcels and one word -/

theorem length_bytesFrom {m : Memory} : ∀ {n a : Nat} {bs : List Byte}, Memory.bytesFrom m a n = some bs → bs.length = n
  | 0, _, _, h => by cases h; rfl
  | n + 1, a, bs, h => by
    unfold Memory.bytesFrom at h
    split at h
    · rename_i hrest
      cases h
      rw [List.length_cons, length_bytesFrom hrest]
    · cases h

/-- Bytes that follow one another in the stream are read at once. -/
theorem bytesFrom_add {m : Memory} {k : Nat} {ys : List Byte} : ∀ {n a : Nat} {xs : List Byte},
    Memory.bytesFrom m a n = some xs → Memory.bytesFrom m (a + n) k = some ys →
      Memory.bytesFrom m a (n + k) = some (xs ++ ys)
  | 0, a, xs, hx, hy => by cases hx; simpa using hy
  | n + 1, a, xs, hx, hy => by
    unfold Memory.bytesFrom at hx
    split at hx
    · rename_i hbyte hrest
      cases hx
      have htail := bytesFrom_add hrest (by rwa [show a + 1 + n = a + (n + 1) by omega])
      rw [show n + 1 + k = n + k + 1 by omega, Memory.bytesFrom, hbyte, htail]
      rfl
    · cases hx

/-- An answered parcel is two bytes of the stream, combined. -/
theorem readParcel_ok_bytes {src : ByteSource} {o : ByteOrder} {a : Nat} {p : Parcel}
    (h : src.readParcel o a = some (.ok p)) :
    src.silentAt a = false ∧ ∃ b0 b1, Memory.bytesFrom src.bytes a 2 = some [b0, b1] ∧ combineBytes 16 o [b0, b1] = p := by
  obtain ⟨bs, hm, hp⟩ := memRead_of_readValue_ok h
  obtain ⟨hs, hb⟩ := memRead_eq_ok_iff.1 hm
  obtain ⟨b0, b1, rfl⟩ := List.length_eq_two.1 (length_bytesFrom hb)
  exact ⟨hs, b0, b1, hb, hp⟩

/-- Two answered parcel reads from the cursor on make the 32-bit read of their four bytes. -/
theorem readU32_of_parcels {src : ByteSource} {o : ByteOrder} {p q : Parcel}
    (hp : src.readParcel o src.cursor = some (.ok p)) (hq : src.readParcel o (src.cursor + 2) = some (.ok q)) :
    ∃ b0 b1 b2 b3, combineBytes 16 o [b0, b1] = p ∧ combineBytes 16 o [b2, b3] = q ∧
      src.readU32 o = some (.ok (combineBytes 32 o [b0, b1, b2, b3]), { src with cursor := src.cursor + 4 }) := by
  obtain ⟨hs, b0, b1, hb, rfl⟩ := readParcel_ok_bytes hp
  obtain ⟨-, b2, b3, hb', rfl⟩ := readParcel_ok_bytes hq
  exact ⟨b0, b1, b2, b3, rfl, rfl,
    readNext_of_ok (memRead_eq_ok_iff.2 ⟨hs, bytesFrom_add hb hb'⟩)⟩

/-- Settles O49: in the order big the four bytes are those of the order little reversed, so the parcels change places. -/
theorem wordReadIsTwoParcelsInLittleOrder : Obligations.WordReadIsTwoParcelsInLittleOrder := by
  refine fun src p q => ⟨fun hp hq => ?_, fun hp hq => ?_⟩
  · obtain ⟨b0, b1, b2, b3, rfl, rfl, h⟩ := readU32_of_parcels hp hq
    rwa [combineBytes_little_four_eq_cat_parcels] at h
  · obtain ⟨b0, b1, b2, b3, rfl, rfl, h⟩ := readU32_of_parcels hp hq
    rwa [combineBytes_big_four, combineBytes_little_four_eq_cat_parcels] at h

end Sys2Proof.Proofs
end

section
/-! SUPPORT. The reads of one step (spec 10_state.md rule R41, 20_memory.md rules R70 and R80): where they stop
(`length_eq_of_not_ok`), and what a step adds to the input port (`step_reads`). -/

namespace Sys2Proof.Proofs

open Sys2Proof.Machine Sys2Proof.Safety

/-! ### The read that is never answered -/

/-- Answered reads that end where the next one is not answered with a parcel end at the same read. -/
theorem length_eq_of_not_ok {s : State} {a : Nat} {ps qs : List Parcel} (hp : Answers s a ps) (hq : Answers s a qs)
    (hnp : ∀ p, s.answerAt (a + 2 * ps.length) ≠ some (.ok p))
    (hnq : ∀ p, s.answerAt (a + 2 * qs.length) ≠ some (.ok p)) : ps.length = qs.length :=
  Nat.le_antisymm (length_le_of_not_ok hp hnq) (length_le_of_not_ok hq hnp)

/-- The reads of a step stop at the one that is never answered, and nowhere else. -/
theorem fetch_of_unanswered {s : State} {ps : List Parcel} (h : Begins s ps)
    (hn : s.answerAt (s.ptr + 2 * ps.length) = none) : fetch s = .unanswered (s.ptr + 2 * ps.length) := by
  have hstop : ∀ qs, Answers s s.ptr qs → (∀ p, s.answerAt (s.ptr + 2 * qs.length) ≠ some (.ok p)) →
      qs.length = ps.length :=
    fun qs hq hnq => length_eq_of_not_ok hq h.answers hnq (by rw [hn]; nofun)
  rcases fetch_cases s h.running with ⟨qs, hq, -⟩ | ⟨hk, -⟩ | ⟨qs, k, hq, -, hk, -⟩ | ⟨qs, hq, hk, -⟩ | ⟨qs, hq, hk, hf⟩
  · obtain ⟨p, hp⟩ := answerAt_of_begins hq h
    simp [hn] at hp
  · have := hstop [] trivial (by simp [hk])
    simp [← this, hk] at hn
  · simp [← hstop qs hq.answers (by simp [hk]), hk] at hn
  · simp [← hstop qs hq.answers (by simp [hk]), hk] at hn
  · rw [hf, hstop qs hq.answers (by simp [hk])]

/-- Settles O32: `fetch_of_unanswered`, which the step reports. -/
theorem unansweredReadHolds : Obligations.UnansweredReadHolds := by
  intro s ps h hn
  simp only [step, h.running, fetch_of_unanswered h hn]

/-! ### The order of the reads -/

/-- The reads `rs` go from `a` on in steps of two bytes, each answered as the source answers it, and only a read that was
answered with a parcel has one after it (R70). -/
def IssuedInOrder (s : State) (a : Nat) (rs : List ReadRecord) : Prop :=
  ∀ (k : Nat) (h : k < rs.length),
    rs[k].offset = a + 2 * k ∧ s.answerAt (a + 2 * k) = some rs[k].answer ∧
      (k + 1 < rs.length → ∃ p, rs[k].answer = .ok p)

theorem issuedInOrder_nil (s : State) (a : Nat) : IssuedInOrder s a [] := nofun

/-- The last read of a step may have any answer. -/
theorem issuedInOrder_singleton {s : State} {a : Nat} {r : ReadAnswer} (h : s.answerAt a = some r) :
    IssuedInOrder s a [⟨a, r⟩] := by
  intro k hk
  obtain rfl : k = 0 := by simpa using hk
  exact ⟨rfl, h, fun hlt => by simp at hlt⟩

/-- A read that was answered with a parcel, before others in order. -/
theorem issuedInOrder_cons {s : State} {a : Nat} {p : Parcel} {rs : List ReadRecord}
    (h : s.answerAt a = some (.ok p)) (hrs : IssuedInOrder s (a + 2) rs) : IssuedInOrder s a (⟨a, .ok p⟩ :: rs) := by
  intro k hk
  cases k with
  | zero => exact ⟨rfl, h, fun _ => ⟨p, rfl⟩⟩
  | succ k =>
    have := hrs k (by simpa using hk)
    rw [show a + 2 + 2 * k = a + 2 * (k + 1) by omega] at this
    simpa using this

/-- Answered reads, and then others in order. -/
theorem issuedInOrder_readRecords {s : State} {failing : List ReadRecord} : ∀ {ps : List Parcel} {a : Nat},
    Answers s a ps → IssuedInOrder s (a + 2 * ps.length) failing →
      IssuedInOrder s a (readRecords a ps ++ failing)
  | [], _, _, hf => hf
  | p :: ps, a, ⟨h, hs⟩, hf => by
    refine issuedInOrder_cons h (issuedInOrder_readRecords hs ?_)
    rwa [List.length_cons, show a + 2 * (ps.length + 1) = a + 2 + 2 * ps.length by omega] at hf

@[simp] theorem length_readRecords (ps : List Parcel) (a : Nat) : (readRecords a ps).length = ps.length := by
  induction ps generalizing a with
  | nil => rfl
  | cons p ps ih => simp [readRecords, ih]

/-- The longest instruction has twelve parcels (R10, R106). -/
theorem classify_le_maxParcels (p0 : Parcel) : (classify p0).2 ≤ Config.maxParcels := by
  rw [classify_snd]
  have := (lengthField p0).isLt
  cases (classify p0).1 <;> simp only [Config.maxParcels] <;> omega

/-- A whole instruction is at least one parcel and at most the buffer's size. -/
theorem length_of_presents {s : State} {ps : List Parcel} (h : Presents s ps) :
    1 ≤ ps.length ∧ ps.length ≤ Config.maxParcels := by
  obtain ⟨p0, rest, rfl, hl⟩ := h.whole
  exact ⟨by simp, hl ▸ classify_le_maxParcels p0⟩

/-- There is room for the parcel that a begun instruction waits for. -/
theorem length_of_begins {s : State} {ps : List Parcel} (h : Begins s ps) : ps.length < Config.maxParcels := by
  cases ps with
  | nil => decide
  | cons p0 rest => exact Nat.lt_of_lt_of_le (h.partly p0 rest rfl) (classify_le_maxParcels p0)

/-- What a step adds to the input port: reads answered with parcels, and after them at most one that was not, of which the
step's instruction had need. -/
theorem step_reads {s t : State} (h : step s = .next t) :
    (∃ ps, Presents s ps ∧ t.reads = s.reads ++ readRecords s.ptr ps) ∨
    (∃ ps r, Begins s ps ∧ s.answerAt (s.ptr + 2 * ps.length) = some r ∧
      t.reads = s.reads ++ (readRecords s.ptr ps ++ [⟨s.ptr + 2 * ps.length, r⟩])) := by
  obtain ⟨hr, ⟨ps, i, hp, -, he⟩ | ⟨ps, u, hp, -, rfl⟩ | ⟨h0, rfl⟩ | ⟨ps, k, hb, -, hk, rfl⟩ | ⟨ps, hb, hk, rfl⟩⟩ :=
    step_cases h
  · rw [exec_eq_deliver, Host.Outcome.next.injEq] at he
    exact .inl ⟨ps, hp, he ▸ rfl⟩
  · exact .inl ⟨ps, hp, List.append_nil _⟩
  · exact .inr ⟨[], _, ⟨hr, trivial, nofun⟩, h0, rfl⟩
  · exact .inr ⟨ps, _, hb, hk, List.append_assoc ..⟩
  · exact .inr ⟨ps, _, hb, hk, List.append_assoc ..⟩

/-- Settles O38: the two forms of `step_reads`, each in order by `issuedInOrder_readRecords`. -/
theorem readsOfAStepAreInOffsetOrder : Obligations.ReadsOfAStepAreInOffsetOrder := by
  intro s t h
  rcases step_reads h with ⟨ps, hp, ht⟩ | ⟨ps, r, hb, hr, ht⟩
  · obtain ⟨hpos, hmax⟩ := length_of_presents hp
    have horder := issuedInOrder_readRecords hp.answers (issuedInOrder_nil s _)
    rw [List.append_nil] at horder
    exact ⟨_, ht, by simpa using hpos, by simpa [Config.maxParcels] using hmax, horder⟩
  · have hmax := length_of_begins hb
    exact ⟨_, ht, by simp, by simpa [Config.maxParcels] using hmax,
      issuedInOrder_readRecords hb.answers (issuedInOrder_singleton hr)⟩

end Sys2Proof.Proofs
end

section
/-! SUPPORT. The classifier and the decoder by their patterns (spec 30_encoding.md rules R100 to R107, R158, R176): the
two classes whose instructions are decoded, that a class is read off bits 14:12 and 6:0, that the decoder reads no
parcel after the instruction's own (`decode_append`), and the words whose opcode is outside the map. -/

namespace Sys2Proof.Proofs

open Sys2Proof.Machine Sys2Proof.Safety

/-! ### The classifier -/

/-- R101 -/
theorem classify_compressed16 {p0 : Parcel} (h : p0.extractLsb' 0 2 ≠ 0b11#2) : classify p0 = (.compressed16, 1) := by
  rw [classify, if_pos h]

/-- R102 -/
theorem classify_word32 {p0 : Parcel} (h : p0.extractLsb' 0 2 = 0b11#2) (h' : p0.extractLsb' 2 3 ≠ 0b111#3) :
    classify p0 = (.word32, 2) := by
  rw [classify, if_neg (not_not.2 h), if_pos h']

/-- Parcels that agree on bits 6:0 agree on every field inside them. -/
theorem extractLsb'_congr_of_low {p q : Parcel} (h : p.extractLsb' 0 7 = q.extractLsb' 0 7) {k n : Nat}
    (hk : k + n ≤ 7) : p.extractLsb' k n = q.extractLsb' k n := by
  rw [← BitVec.extractLsb'_extractLsb'_of_le hk, h, BitVec.extractLsb'_extractLsb'_of_le hk]

/-- R107: each field that the classifier tests lies in bits 14:12 or in bits 6:0. -/
theorem classify_congr {p q : Parcel} (hn : p.extractLsb' 12 3 = q.extractLsb' 12 3)
    (h : p.extractLsb' 0 7 = q.extractLsb' 0 7) : classify p = classify q := by
  have field {k n : Nat} (hk : k + n ≤ 7) := extractLsb'_congr_of_low h hk
  rw [classify, classify, lengthField, lengthField, hn, field (k := 0) (n := 2) (by omega),
    field (k := 2) (n := 3) (by omega), field (k := 5) (n := 1) (by omega), field (k := 6) (n := 1) (by omega)]

/-- Settles O46: one lemma per pattern, and `classify_congr` for the bits that no pattern reads. -/
theorem classifierFollowsItsPatterns : Obligations.ClassifierFollowsItsPatterns := by
  intro p0
  exact ⟨classify_compressed16, classify_word32, classify_doubleWord48 p0, classify_quadWord64 p0,
    classify_extended p0, classify_reserved192 p0, fun _ => classify_congr⟩

/-! ### The decoder -/

/-- What follows a whole instruction does not change its decoding (R43). -/
theorem decode_append {p0 : Parcel} {ps : List Parcel} (hl : (p0 :: ps).length = (classify p0).2)
    (rest : List Parcel) : decode (p0 :: ps ++ rest) = decode (p0 :: ps) := by
  have htake : (p0 :: (ps ++ rest)).take (classify p0).2 = p0 :: ps := by
    rw [← hl, ← List.cons_append, List.take_left]
  have hlong : ¬ (p0 :: (ps ++ rest)).length < (classify p0).2 := by
    rw [← hl, ← List.cons_append, List.length_append]
    omega
  rw [decode_eq_decodeAs (c := (classify p0).1) rfl hl, List.cons_append, decode, if_neg hlong, htake]

/-- Settles O43: `decode_encode`, with `decode_append` for the parcels that follow. -/
theorem decodeOfEncodeIsTheInstruction : Obligations.DecodeOfEncodeIsTheInstruction := by
  intro i rest h
  obtain ⟨p0, ps, he, -, hl⟩ := encode_classified h
  have hd := decode_encode h
  rw [he] at hd hl ⊢
  rw [decode_append hl, hd]

/-- R158: no arm of the 32-bit resolver has an opcode outside the map. -/
theorem decode32_eq_none_of_opcode {w : Word}
    (h : opcode w ∉ [0b0110111#7, 0b0010111#7, 0b1101111#7, 0b1100111#7, 0b0000011#7, 0b0100011#7, 0b1100011#7,
      0b0010011#7, 0b0110011#7, 0b1110011#7, 0b0001111#7]) : decode32 w = none := by
  simp only [List.mem_cons, List.not_mem_nil, or_false, not_or] at h
  simp [decode32, h]

/-- Settles O54: a word of the 32-bit length reaches the 32-bit resolver (`decode_halves`), which has no arm for it. -/
theorem opcodesOutsideTheMapAreMalformed : Obligations.OpcodesOutsideTheMapAreMalformed := by
  intro w hlow hhigh hmap
  have hd := decode_halves w (by rwa [opcode, BitVec.extractLsb'_extractLsb'_of_le (by omega)])
    (by rwa [opcode, BitVec.extractLsb'_extractLsb'_of_le (by omega)])
  rwa [decode32_eq_none_of_opcode hmap] at hd

/-- Settles O56: each conjunct is one run of the decoder. -/
theorem sampleWordsDecode : Obligations.SampleWordsDecode := by
  refine ⟨?addi, ?beq, ?sw, ?sret, ?cLi, ?cAddi4spn, ?cEbreak, ?framed⟩
  all_goals decide

end Sys2Proof.Proofs
end

section
/-! SUPPORT. The values of immediates (spec 30_encoding.md rules R130 to R152): sign extension as two's complement, the
low zero bits that a scatter list leaves, and what those bits say of the extended value, for a field of any width. -/

namespace Sys2Proof.Proofs

open Sys2Proof.Machine

/-! ### Extension to 32 bits -/

/-- R131: sign extension keeps the field's two's complement value. -/
theorem toInt_sext32 {w : Nat} {v : BitVec w} (hw : w ≤ 32) : (sext32 v).toInt = v.toInt :=
  BitVec.toInt_signExtend_of_le hw

theorem toNat_zext32 {w : Nat} {v : BitVec w} (hw : w ≤ 32) : (zext32 v).toNat = v.toNat :=
  BitVec.toNat_setWidth_of_le hw

/-- Settles O51: two's complement by the top bit, which bit `n` is. -/
theorem extensionsReadAsTheSpecSays : Obligations.ExtensionsReadAsTheSpecSays := by
  intro n v hn
  refine ⟨?_, toNat_zext32 hn⟩
  rw [toInt_sext32 hn, BitVec.toInt_eq_msb_cond, BitVec.msb_eq_getLsbD_last, Nat.add_sub_cancel, Nat.cast_pow,
    Nat.cast_ofNat]

/-! ### Low zero bits -/

/-- The low zero bits of a concatenation are those of its lower part. -/
@[simp] theorem lowZero_cat {w n m k : Nat} (hw : m ≤ w) (hk : k ≤ m) (a : BitVec n) (b : BitVec m) :
    lowZero k (cat w a b) = lowZero k b := by
  have hlow : (cat w a b).extractLsb' 0 k = b.extractLsb' 0 k := by
    apply BitVec.eq_of_getLsbD_eq
    intro j hj
    simp [getLsbD_cat, hj, show j < w by omega, show j < m by omega, -BitVec.getLsbD_eq_getElem]
  rw [lowZero, lowZero, hlow]

@[simp] theorem lowZero_zero {w k : Nat} : lowZero k 0#w = true := by
  simp [lowZero]

/-- Every value is a multiple of 1. -/
theorem lowZero_none {w : Nat} (v : BitVec w) : lowZero 0 v = true :=
  beq_iff_eq.2 (BitVec.eq_of_zero_length rfl)

/-- A value whose low `k` bits are zero is a multiple of `2 ^ k`. -/
theorem two_pow_dvd_toNat {w k : Nat} {v : BitVec w} (hz : lowZero k v = true) : 2 ^ k ∣ v.toNat := by
  have h := congrArg BitVec.toNat (beq_iff_eq.1 hz)
  rw [BitVec.extractLsb'_toNat, Nat.shiftRight_zero, BitVec.toNat_ofNat, Nat.zero_mod] at h
  exact Nat.dvd_of_mod_eq_zero h

/-- So is its two's complement value. -/
theorem two_pow_dvd_toInt {w k : Nat} {v : BitVec w} (hk : k ≤ w) (hz : lowZero k v = true) :
    (2 : Int) ^ k ∣ v.toInt := by
  have hnat : (2 : Int) ^ k ∣ (v.toNat : Int) := by exact_mod_cast two_pow_dvd_toNat hz
  rw [BitVec.toInt_eq_msb_cond, Nat.cast_pow, Nat.cast_ofNat]
  split
  · exact dvd_sub hnat (pow_dvd_pow 2 hk)
  · exact hnat

/-- The unsigned reading of a field with its low `k` bits zero: its range and its step. -/
theorem zext32_range {w k : Nat} {v : BitVec w} (hz : lowZero k v = true) (hw : w ≤ 32 := by omega)
    (hk : k ≤ w := by omega) :
    (zext32 v).toNat ≤ 2 ^ w - 2 ^ k ∧ (zext32 v).toNat % 2 ^ k = 0 := by
  rw [toNat_zext32 hw]
  have hdvd := two_pow_dvd_toNat hz
  have hgap : 2 ^ k ≤ 2 ^ w - v.toNat :=
    Nat.le_of_dvd (Nat.sub_pos_of_lt v.isLt) (Nat.dvd_sub (pow_dvd_pow 2 hk) hdvd)
  exact ⟨by omega, Nat.mod_eq_zero_of_dvd hdvd⟩

/-- The signed reading of a field with its low `k` bits zero: its range and its step. -/
theorem sext32_range {n k : Nat} {v : BitVec (n + 1)} (hz : lowZero k v = true) (hw : n + 1 ≤ 32 := by omega)
    (hk : k ≤ n := by omega) :
    -2 ^ n ≤ (sext32 v).toInt ∧ (sext32 v).toInt ≤ 2 ^ n - 2 ^ k ∧ (sext32 v).toInt % 2 ^ k = 0 := by
  rw [toInt_sext32 hw]
  have hdvd := two_pow_dvd_toInt (Nat.le_succ_of_le hk) hz
  have hgap : (2 : Int) ^ k ≤ 2 ^ n - v.toInt :=
    Int.le_of_dvd (sub_pos.2 BitVec.toInt_lt) (dvd_sub (pow_dvd_pow 2 hk) hdvd)
  exact ⟨BitVec.le_toInt v, by omega, Int.emod_eq_zero_of_dvd hdvd⟩

/-- The extension of a field with bit 0 zero is twice that of the field above it. -/
theorem sext32_eq_two_mul {n : Nat} {v : BitVec (n + 1)} (hn : 0 < n) (hz : lowZero 1 v = true) :
    sext32 v = 2#32 * (v.extractLsb' 1 n).signExtend 32 := by
  rw [show 2#32 = BitVec.twoPow 32 1 from rfl, BitVec.twoPow_mul_eq_shiftLeft]
  apply BitVec.eq_of_getLsbD_eq
  intro k hk
  cases k with
  | zero => simp [sext32, BitVec.getLsbD_signExtend, getLsbD_of_lowZero hz, -BitVec.getLsbD_eq_getElem]
  | succ k =>
    have hlast : 1 + (n - 1) = n := by omega
    have hk' : k < 32 := by omega
    by_cases h : k < n <;>
      simp [sext32, BitVec.getLsbD_signExtend, BitVec.msb_eq_getLsbD_last, hk, hk', hn, hlast, h, Nat.add_comm 1 k,
        -BitVec.getLsbD_eq_getElem]

/-! ### The steps of the scattered immediates -/

section
variable (i : Word) (c : Parcel)

/-- R135 -/
theorem lowZero_fieldImmB : lowZero 1 (fieldImmB i) = true := by simp [fieldImmB_eq_cat]

/-- R137 -/
theorem lowZero_fieldImmJ : lowZero 1 (fieldImmJ i) = true := by simp [fieldImmJ_eq_cat]

/-- R140 -/
theorem lowZero_immCiw : lowZero 2 (immCiw c) = true := by simp [immCiw_eq_cat]

/-- R141 -/
theorem lowZero_immCLw : lowZero 2 (immCLw c) = true := by simp [immCLw_eq_cat]

/-- R142 -/
theorem lowZero_immCLd : lowZero 3 (immCLd c) = true := by simp [immCLd_eq_cat]

/-- R144 -/
theorem lowZero_immC16sp : lowZero 4 (immC16sp c) = true := by simp [immC16sp_eq_cat]

/-- R145 -/
theorem lowZero_immCLui : lowZero 12 (immCLui c) = true := by simp [immCLui_eq_cat]

/-- R147 -/
theorem lowZero_immCJ : lowZero 1 (immCJ c) = true := by simp [immCJ_eq_cat]

/-- R148 -/
theorem lowZero_immCB : lowZero 1 (immCB c) = true := by simp [immCB_eq_cat]

/-- R149 -/
theorem lowZero_immCLwsp : lowZero 2 (immCLwsp c) = true := by simp [immCLwsp_eq_cat]

/-- R150 -/
theorem lowZero_immCLdsp : lowZero 3 (immCLdsp c) = true := by simp [immCLdsp_eq_cat]

/-- R151 -/
theorem lowZero_immCSwsp : lowZero 2 (immCSwsp c) = true := by simp [immCSwsp_eq_cat]

/-- R152 -/
theorem lowZero_immCSdsp : lowZero 3 (immCSdsp c) = true := by simp [immCSdsp_eq_cat]

end

/-- Settles O52: bit 0 of each displacement is zero, so `sext32_eq_two_mul` applies. -/
theorem displacementsAreTwiceTheirField : Obligations.DisplacementsAreTwiceTheirField :=
  ⟨fun w => sext32_eq_two_mul (n := 12) (by omega) (lowZero_fieldImmB w),
    fun w => sext32_eq_two_mul (n := 20) (by omega) (lowZero_fieldImmJ w),
    fun c => sext32_eq_two_mul (n := 11) (by omega) (lowZero_immCJ c),
    fun c => sext32_eq_two_mul (n := 8) (by omega) (lowZero_immCB c)⟩

/-- Settles O53: each immediate's range and step are given by its width and its low zero bits (`sext32_range`,
`zext32_range`). -/
theorem immediatesStayInTheirRanges : Obligations.ImmediatesStayInTheirRanges := by
  refine ⟨fun i => ⟨?immI, ?immS, ?immB, ?immJ, ?shamt, ?csr⟩,
    fun c => ⟨?ciw, ?cLw, ?cLd, ?ci, ?c16sp, ?cLui, ?cSh, ?cJ, ?cB, ?cLwsp, ?cLdsp, ?cSwsp, ?cSdsp⟩⟩
  case immI | immS => exact sext32_range (n := 11) (lowZero_none _)
  case immB => exact sext32_range (n := 12) (lowZero_fieldImmB i)
  case immJ => exact sext32_range (n := 20) (lowZero_fieldImmJ i)
  case shamt | csr | cSh => exact zext32_range (lowZero_none _)
  case ciw => exact zext32_range (lowZero_immCiw c)
  case cLw => exact zext32_range (lowZero_immCLw c)
  case cLd => exact zext32_range (lowZero_immCLd c)
  case ci => exact sext32_range (n := 5) (lowZero_none _)
  case c16sp => exact sext32_range (n := 9) (lowZero_immC16sp c)
  case cLui => exact sext32_range (n := 17) (lowZero_immCLui c)
  case cJ => exact sext32_range (n := 11) (lowZero_immCJ c)
  case cB => exact sext32_range (n := 8) (lowZero_immCB c)
  case cLwsp => exact zext32_range (lowZero_immCLwsp c)
  case cLdsp => exact zext32_range (lowZero_immCLdsp c)
  case cSwsp => exact zext32_range (lowZero_immCSwsp c)
  case cSdsp => exact zext32_range (lowZero_immCSdsp c)

end Sys2Proof.Proofs
end

section
/-! SUPPORT. What a 32-bit word stands for (spec 30_encoding.md rules R158 and R170): the resolver's answer settles what
the word delivers (`delivers32_of_decode32`) or that it is malformed (`malformed32_of_decode32`). With it, the
families of 41_rv32_upper_jump_load_store_branch.md. -/

namespace Sys2Proof.Proofs

open Sys2Proof.Machine Sys2Proof.Safety

/-! ### From the resolver to the word -/

/-- R102: every opcode that the 32-bit resolver has an arm for is of the 32-bit length. -/
theorem opcode_length_of_decode32 {w : Word} {i : Instr} (h : decode32 w = some i) :
    (opcode w).extractLsb' 0 2 = 0b11#2 ∧ (opcode w).extractLsb' 2 3 ≠ 0b111#3 := by
  have hmap := mt decode32_eq_none_of_opcode (h ▸ Option.some_ne_none i)
  exact (by decide : ∀ op ∈ _, op.extractLsb' 0 2 = 0b11#2 ∧ op.extractLsb' 2 3 ≠ 0b111#3) _ (not_not.1 hmap)

/-- A word that the resolver knows delivers the record of its instruction's meaning. -/
theorem delivers32_of_decode32 {w : Word} {i : Instr} {d : Decoded} (h : decode32 w = some i)
    (hd : recordOf i = some d) : Delivers32 w i d := by
  obtain ⟨hlow, hhigh⟩ := opcode_length_of_decode32 h
  refine ⟨h, decode_halves_of_decode32 hlow hhigh h, fun s => ?_⟩
  rw [exec_eq_deliver, decode32_resolves w i h, hd, deliver_eq_afterEvent]
  rfl

/-- R170: a word of the 32-bit length that the resolver has no arm for is malformed. -/
theorem malformed32_of_decode32 {w : Word} {op : BitVec 7} (hop : opcode w = op)
    (hlen : op.extractLsb' 0 2 = 0b11#2 ∧ op.extractLsb' 2 3 ≠ 0b111#3) (h : decode32 w = none) : Malformed32 w := by
  subst hop
  have hd := decode_halves w hlen.1 hlen.2
  rwa [h] at hd

/-! ### Upper immediates and jumps -/

/-- Settles O1: the two opcodes are the resolver's first arms. -/
theorem luiAndAuipcDeliverRdAndUpperImmediate : Obligations.LuiAndAuipcDeliverRdAndUpperImmediate := by
  intro w
  refine ⟨fun (hop : opcode w = _) => ?lui, fun (hop : opcode w = _) => ?auipc⟩
  all_goals exact delivers32_of_decode32 (by simp [decode32, hop, fieldRd, fieldImmU]) rfl

/-- Settles O2: the opcode is an arm of the resolver, and its scatter is the concatenation (`fieldImmJ_eq_cat`). -/
theorem jalDeliversRdAndJumpOffset : Obligations.JalDeliversRdAndJumpOffset := by
  intro w (hop : opcode w = _)
  exact delivers32_of_decode32 (by simp [decode32, hop, fieldRd, fieldImmJ_eq_cat]) rfl

/-- Settles O3: by `funct3`, as `decodeJalr` tests it. -/
theorem jalrDeliversOrIsMalformed : Obligations.JalrDeliversOrIsMalformed := by
  intro w (hop : opcode w = _)
  have hd : decode32 w = decodeJalr w := by simp [decode32, hop]
  refine ⟨fun (hf : funct3 w = _) => ?jalr, fun (hf : funct3 w ≠ _) => ?malformed⟩
  case jalr => exact delivers32_of_decode32 (hd.trans (if_pos hf)) rfl
  case malformed => exact malformed32_of_decode32 hop (by decide) (hd.trans (if_neg hf))

/-! ### Loads, stores and branches -/

/-- Settles O4: by `funct3`, as `decodeLoad` tests it. -/
theorem loadsDeliverOrAreMalformed : Obligations.LoadsDeliverOrAreMalformed := by
  intro w (hop : opcode w = _)
  have hd : decode32 w = decodeLoad w := by simp [decode32, hop]
  refine ⟨?lb, ?lh, ?lw, ?lbu, ?lhu, ?malformed⟩
  case malformed =>
    intro (hf : funct3 w ∈ _)
    simp only [List.mem_cons, List.not_mem_nil, or_false] at hf
    refine malformed32_of_decode32 hop (by decide) (hd.trans ?_)
    rcases hf with hf | hf | hf <;> simp [decodeLoad, hf]
  all_goals
    intro (hf : funct3 w = _)
    exact delivers32_of_decode32 (by simp [hd, decodeLoad, hf, fieldRd, fieldRs1, fieldImmI]) rfl

/-- Settles O5: by `funct3`, as `decodeStore` tests it; the scatter is the concatenation (`fieldImmS_eq_cat`). -/
theorem storesDeliverOrAreMalformed : Obligations.StoresDeliverOrAreMalformed := by
  intro w (hop : opcode w = _)
  have hd : decode32 w = decodeStore w := by simp [decode32, hop]
  refine ⟨?sb, ?sh, ?sw, ?malformed⟩
  case malformed =>
    intro (hf : funct3 w ∈ _)
    simp only [List.mem_cons, List.not_mem_nil, or_false] at hf
    refine malformed32_of_decode32 hop (by decide) (hd.trans ?_)
    rcases hf with hf | hf | hf | hf | hf <;> simp [decodeStore, hf]
  all_goals
    intro (hf : funct3 w = _)
    exact delivers32_of_decode32 (by simp [hd, decodeStore, hf, fieldRs1, fieldRs2, fieldImmS_eq_cat]) rfl

/-- Settles O6: by `funct3`, as `decodeBranch` tests it; the scatter is the concatenation (`fieldImmB_eq_cat`). -/
theorem branchesDeliverOrAreMalformed : Obligations.BranchesDeliverOrAreMalformed := by
  intro w (hop : opcode w = _)
  have hd : decode32 w = decodeBranch w := by simp [decode32, hop]
  refine ⟨?beq, ?bne, ?blt, ?bge, ?bltu, ?bgeu, ?malformed⟩
  case malformed =>
    intro (hf : funct3 w ∈ _)
    simp only [List.mem_cons, List.not_mem_nil, or_false] at hf
    refine malformed32_of_decode32 hop (by decide) (hd.trans ?_)
    rcases hf with hf | hf <;> simp [decodeBranch, hf]
  all_goals
    intro (hf : funct3 w = _)
    exact delivers32_of_decode32 (by simp [hd, decodeBranch, hf, fieldRs1, fieldRs2, fieldImmB_eq_cat]) rfl

end Sys2Proof.Proofs
end

section
/-! SUPPORT. The families of 42_rv32_alu.md: OP-IMM, by `funct3` and for the shifts by `funct7` too (R240 to R250), and
OP, by the pair of both (R251 to R262). -/

namespace Sys2Proof.Proofs

open Sys2Proof.Machine Sys2Proof.Safety

/-! ### OP-IMM -/

/-- Settles O7: by `funct3`, as `decodeOpImm` tests it, and by `funct7` for the three shifts. -/
theorem opImmDeliversOrIsMalformed : Obligations.OpImmDeliversOrIsMalformed := by
  intro w (hop : opcode w = _)
  have hd : decode32 w = decodeOpImm w := by simp [decode32, hop]
  refine ⟨?addi, ?slti, ?sltiu, ?xori, ?ori, ?andi, ?slli, ?srli, ?srai, ?malformedLeft, ?malformedRight⟩
  case malformedLeft =>
    intro (hf : funct3 w = _) (h7 : funct7 w ≠ _)
    exact malformed32_of_decode32 hop (by decide) (by simp [hd, decodeOpImm, hf, h7])
  case malformedRight =>
    intro (hf : funct3 w = _) (h0 : funct7 w ≠ _) (h20 : funct7 w ≠ _)
    exact malformed32_of_decode32 hop (by decide) (by simp [hd, decodeOpImm, hf, h0, h20])
  case slli | srli | srai =>
    intro (hf : funct3 w = _) (h7 : funct7 w = _)
    exact delivers32_of_decode32 (by simp [hd, decodeOpImm, hf, h7, fieldRd, fieldRs1, fieldShamt]) rfl
  all_goals
    intro (hf : funct3 w = _)
    exact delivers32_of_decode32 (by simp [hd, decodeOpImm, hf, fieldRd, fieldRs1, fieldImmI]) rfl

/-! ### OP -/

/-- R251: a `funct7` that no mnemonic requires, and `0b0100000` where `funct3` is not that of `sub` or `sra`, have no
arm in the resolver. -/
theorem decodeOp_eq_none {w : Word} (h0 : funct7 w ≠ 0b0000000#7)
    (h20 : funct7 w = 0b0100000#7 → funct3 w ≠ 0b000#3 ∧ funct3 w ≠ 0b101#3) : decodeOp w = none := by
  rw [decodeOp, if_neg h0]
  by_cases h7 : funct7 w = 0b0100000#7
  · obtain ⟨hsub, hsra⟩ := h20 h7
    rw [if_pos h7, if_neg hsub, if_neg hsra]
  · exact if_neg h7

/-- Settles O8: by `funct7` and then `funct3`, as `decodeOp` tests them. -/
theorem opDeliversOrIsMalformed : Obligations.OpDeliversOrIsMalformed := by
  intro w (hop : opcode w = _)
  have hd : decode32 w = decodeOp w := by simp [decode32, hop]
  refine ⟨?add, ?sub, ?sll, ?slt, ?sltu, ?xor, ?srl, ?sra, ?or, ?and, ?malformed⟩
  case malformed =>
    intro (hf : (funct3 w, funct7 w) ∉ _)
    refine malformed32_of_decode32 hop (by decide) (hd.trans (decodeOp_eq_none (fun h7 => ?_) (fun h7 => ?_)))
    all_goals
      rw [h7] at hf
      generalize funct3 w = f3 at hf ⊢
      revert f3
      decide
  all_goals
    intro (hf : (funct3 w, funct7 w) = _)
    obtain ⟨h3, h7⟩ := Prod.mk.inj hf
    exact delivers32_of_decode32 (by simp [hd, decodeOp, h3, h7, fieldRd, fieldRs1, fieldRs2]) rfl

end Sys2Proof.Proofs
end

section
/-! SUPPORT. The families of 43_rv32_system_fence.md: CSR by `funct3` (R288 to R294), PRIV by `i[31:20]` alone (R281 to
R287), the rest of SYSTEM malformed (R295), and MISC-MEM (R296 to R299). -/

namespace Sys2Proof.Proofs

open Sys2Proof.Machine Sys2Proof.Safety

/-! ### SYSTEM -/

/-- R280: the resolver's arm of the opcode SYSTEM. -/
theorem decode32_of_system {w : Word} (hop : opcode w = 0b1110011#7) : decode32 w = decodeSystem w := by
  simp [decode32, hop]

/-- R281: `funct3 = 000` is the PRIV lookup. -/
theorem decode32_of_priv {w : Word} (hop : opcode w = 0b1110011#7) (hf : funct3 w = 0b000#3) :
    decode32 w = decodePriv w := by
  rw [decode32_of_system hop, decodeSystem, if_pos hf]

/-- Settles O9: by `funct3` alone, as `decodeSystem` tests it. -/
theorem csrInstructionsDeliverCsrNumber : Obligations.CsrInstructionsDeliverCsrNumber := by
  intro w (hop : opcode w = _)
  have hd := decode32_of_system hop
  refine ⟨?csrrw, ?csrrs, ?csrrc, ?csrrwi, ?csrrsi, ?csrrci⟩
  all_goals
    intro (hf : funct3 w = _)
    exact delivers32_of_decode32 (by simp [hd, decodeSystem, hf, fieldRd, fieldRs1, fieldCsr]) rfl

/-- Settles O10: by `funct3`, and then by `i[31:20]` as `decodePriv` looks it up. -/
theorem privInstructionsDeliverMnemonicAlone : Obligations.PrivInstructionsDeliverMnemonicAlone := by
  intro w (hop : opcode w = _)
  refine ⟨fun (hf : funct3 w = _) => ?priv, fun (hf : funct3 w = _) => ?funct3Malformed⟩
  case funct3Malformed =>
    exact malformed32_of_decode32 hop (by decide) (by simp [decode32_of_system hop, decodeSystem, hf])
  case priv =>
    have hd := decode32_of_priv hop hf
    refine ⟨?ecall, ?ebreak, ?uret, ?sret, ?mret, ?wfi, ?malformed⟩
    case malformed =>
      intro (hi : fieldImmI w ∉ _)
      simp only [List.mem_cons, List.not_mem_nil, or_false, not_or] at hi
      exact malformed32_of_decode32 hop (by decide) (by simp [hd, decodePriv, hi])
    all_goals
      intro (hi : fieldImmI w = _)
      exact delivers32_of_decode32 (by simp [hd, decodePriv, hi]) rfl

/-! ### MISC-MEM -/

/-- The resolver's arm of the opcode MISC-MEM. -/
theorem decode32_of_miscMem {w : Word} (hop : opcode w = 0b0001111#7) : decode32 w = decodeMiscMem w := by
  simp [decode32, hop]

/-- R297: each letter's flag is the instruction bit that carries it. -/
theorem fenceHas_fieldFence (w : Word) (l : FenceLetter) :
    fenceHas (fieldFence w) l = w.getLsbD (fenceInstructionBit l) := by
  have hl : fenceBit l < 8 := by cases l <;> decide
  simp [fenceHas, fieldFence, fenceInstructionBit, hl, -BitVec.getLsbD_eq_getElem]

/-- Settles O11: by `funct3`, as `decodeMiscMem` tests it; the letters by `fenceHas_fieldFence`. -/
theorem fencesDeliverFlagsOrAreMalformed : Obligations.FencesDeliverFlagsOrAreMalformed := by
  intro w (hop : opcode w = _)
  have hd := decode32_of_miscMem hop
  refine ⟨fun (hf : funct3 w = _) => ?fence, fun (hf : funct3 w = _) => ?fenceI,
    fun (h0 : funct3 w ≠ _) (h1 : funct3 w ≠ _) => ?malformed, ?letters⟩
  case fence => exact delivers32_of_decode32 (by simp [hd, decodeMiscMem, hf, fieldFence]) rfl
  case fenceI => exact delivers32_of_decode32 (by simp [hd, decodeMiscMem, hf]) rfl
  case malformed => exact malformed32_of_decode32 hop (by decide) (by simp [hd, decodeMiscMem, h0, h1])
  case letters => exact List.map_congr_left fun l _ => fenceHas_fieldFence w l

end Sys2Proof.Proofs
end

section
/-! SUPPORT. Encoding after decoding (spec 30_encoding.md sections 2 and 3): in every format the fields of a word or a
parcel put together again are it (`wordI_of_fields` and its kin), so each arm of a resolver answers an instruction
whose encoding is the word (`Restores`); of a word whose arm reads fewer fields, the encoding is the word masked
(`wordI_of_mask`). -/

namespace Sys2Proof.Proofs

open Sys2Proof.Machine

/-! ### Slices and concatenations -/

section slices
variable {v n m j k w : Nat}

/-- Adjacent slices put together are the slice of both. -/
@[simp] theorem cat_extractLsb' (x : BitVec v) (hj : j = k + m) (hw : w = n + m) :
    cat w (x.extractLsb' j n) (x.extractLsb' k m) = x.extractLsb' k w := by
  subst hj hw
  rw [cat, BitVec.extractLsb'_append_extractLsb'_eq_extractLsb' rfl, BitVec.setWidth_eq]

/-- A slice inside the lower part of a concatenation. -/
@[simp] theorem extractLsb'_cat_of_le (a : BitVec n) (b : BitVec m) (hk : k + j ≤ m) (hw : m ≤ w) :
    (cat w a b).extractLsb' k j = b.extractLsb' k j := by
  apply BitVec.eq_of_getLsbD_eq
  intro i hi
  simp [getLsbD_cat, hi, show k + i < w by omega, show k + i < m by omega, -BitVec.getLsbD_eq_getElem]

/-- A slice inside the upper part of a concatenation. -/
@[simp] theorem extractLsb'_cat_of_ge (a : BitVec n) (b : BitVec m) (hk : m ≤ k) (hw : k + j ≤ w) :
    (cat w a b).extractLsb' k j = a.extractLsb' (k - m) j := by
  apply BitVec.eq_of_getLsbD_eq
  intro i hi
  simp [getLsbD_cat, hi, show k + i < w by omega, show ¬ k + i < m by omega, show k + i - m = k - m + i by omega,
    -BitVec.getLsbD_eq_getElem]

end slices

/-! ### A word is its fields (R112) -/

section word
variable {w : Word} {f7 : BitVec 7} {f3 : BitVec 3} {op : BitVec 7}

theorem wordR_of_fields (h7 : funct7 w = f7) (h3 : funct3 w = f3) (hop : opcode w = op) :
    wordR f7 (fieldRs2 w) (fieldRs1 w) f3 (fieldRd w) op = w := by
  subst h7 h3 hop
  simp [wordR, opcode, fieldRd, funct3, fieldRs1, fieldRs2, funct7]

theorem wordI_of_fields (h3 : funct3 w = f3) (hop : opcode w = op) :
    wordI (fieldImmI w) (fieldRs1 w) f3 (fieldRd w) op = w := by
  subst h3 hop
  simp [wordI, opcode, fieldRd, funct3, fieldRs1, fieldImmI]

theorem wordS_of_fields (h3 : funct3 w = f3) (hop : opcode w = op) :
    wordS (fieldImmS w) (fieldRs2 w) (fieldRs1 w) f3 op = w := by
  subst h3 hop
  simp [wordS, opcode, fieldImmS_eq_cat, funct3, fieldRs1, fieldRs2]

theorem wordB_of_fields (h3 : funct3 w = f3) (hop : opcode w = op) :
    wordB (fieldImmB w) (fieldRs2 w) (fieldRs1 w) f3 op = w := by
  subst h3 hop
  simp [wordB, opcode, fieldImmB_eq_cat, funct3, fieldRs1, fieldRs2]

theorem wordU_of_fields (hop : opcode w = op) : wordU (fieldImmU w) (fieldRd w) op = w := by
  subst hop
  simp [wordU, opcode, fieldImmU, fieldRd]

theorem wordJ_of_fields (hop : opcode w = op) : wordJ (fieldImmJ w) (fieldRd w) op = w := by
  subst hop
  simp [wordJ, opcode, fieldImmJ_eq_cat, fieldRd]

/-- The fields of a masked word are masked. -/
theorem and_eq_wordI (w m : Word) :
    w &&& m = wordI (fieldImmI w &&& fieldImmI m) (fieldRs1 w &&& fieldRs1 m) (funct3 w &&& funct3 m)
      (fieldRd w &&& fieldRd m) (opcode w &&& opcode m) := by
  rw [← wordI_of_fields (w := w &&& m) rfl rfl]
  simp only [fieldImmI, fieldRs1, funct3, fieldRd, opcode, BitVec.extractLsb'_and]

/-- A mask that drops `rs1` and `rd`, keeps `funct3` and `opcode`, and masks the immediate. -/
theorem wordI_of_mask {m : Word} {imm : BitVec 12} (h3 : funct3 w = f3) (hop : opcode w = op)
    (himm : fieldImmI w &&& fieldImmI m = imm) (hrs1 : fieldRs1 m = 0#5) (hf : funct3 m = BitVec.allOnes 3)
    (hrd : fieldRd m = 0#5) (hlow : opcode m = BitVec.allOnes 7) : wordI imm 0#5 f3 0#5 op = w &&& m := by
  rw [and_eq_wordI, h3, hop, himm, hrs1, hf, hrd, hlow]
  simp only [BitVec.and_zero, BitVec.and_allOnes]

/-- The flags are the low part of the immediate; the bits above them are `fm` (R113). -/
theorem fieldImmI_and_flags (w : Word) : fieldImmI w &&& 0x0ff#12 = cat 12 0#4 (fieldFence w) := by
  apply BitVec.eq_of_getLsbD_eq
  intro k hk
  interval_cases k <;> simp [fieldImmI, fieldFence, getLsbD_cat, -BitVec.getLsbD_eq_getElem]

end word

/-! ### A parcel is its fields (R122) -/

section parcel
variable {c : Parcel} {f3 : BitVec 3} {q : BitVec 2}

theorem parcelCr_of_fields {f4 : BitVec 4} {rd rs2 : Reg} (h4 : cat 4 (selector c) (cBit12 c) = f4)
    (hrd : cRd c = rd) (hrs2 : cRs2 c = rs2) (hq : quadrant c = q) : parcelCr f4 rd rs2 q = c := by
  subst h4 hrd hrs2 hq
  simp [parcelCr, selector, cBit12, cRd, cRs2, quadrant]

theorem parcelCi6_of_fields (h3 : selector c = f3) (hq : quadrant c = q) :
    parcelCi6 f3 (immCi c) (cRd c) q = c := by
  subst h3 hq
  simp [parcelCi6, parcelCi, selector, immCi_eq_cat, cRd, quadrant]

theorem parcelCi16sp_of_fields {rd : Reg} (h3 : selector c = f3) (hrd : cRd c = rd) (hq : quadrant c = q) :
    parcelCi f3 ((immC16sp c).extractLsb' 9 1) rd
      (cat 5 ((immC16sp c).extractLsb' 4 1) (cat 4 ((immC16sp c).extractLsb' 6 1)
        (cat 3 ((immC16sp c).extractLsb' 7 2) ((immC16sp c).extractLsb' 5 1)))) q = c := by
  subst h3 hrd hq
  simp [parcelCi, selector, immC16sp_eq_cat, cRd, quadrant]

theorem parcelCiLui_of_fields (h3 : selector c = f3) (hq : quadrant c = q) :
    parcelCi f3 ((immCLui c).extractLsb' 17 1) (cRd c) ((immCLui c).extractLsb' 12 5) q = c := by
  subst h3 hq
  simp [parcelCi, selector, immCLui_eq_cat, cRd, quadrant]

theorem parcelCiWord_of_fields (h3 : selector c = f3) (hq : quadrant c = 0b10#2) :
    parcelCiWord f3 (immCLwsp c) (cRd c) = c := by
  subst h3
  rw [parcelCiWord, ← hq]
  simp [parcelCi, selector, immCLwsp_eq_cat, cRd, quadrant]

theorem parcelCiDouble_of_fields (h3 : selector c = f3) (hq : quadrant c = q) :
    parcelCi f3 ((immCLdsp c).extractLsb' 5 1) (cRd c)
      (cat 5 ((immCLdsp c).extractLsb' 3 2) ((immCLdsp c).extractLsb' 6 3)) q = c := by
  subst h3 hq
  simp [parcelCi, selector, immCLdsp_eq_cat, cRd, quadrant]

theorem parcelCssWord_of_fields (h3 : selector c = f3) (hq : quadrant c = q) :
    parcelCss f3 (cat 6 ((immCSwsp c).extractLsb' 2 4) ((immCSwsp c).extractLsb' 6 2)) (cRs2 c) q = c := by
  subst h3 hq
  simp [parcelCss, selector, immCSwsp_eq_cat, cRs2, quadrant]

theorem parcelCssDouble_of_fields (h3 : selector c = f3) (hq : quadrant c = q) :
    parcelCss f3 (cat 6 ((immCSdsp c).extractLsb' 3 3) ((immCSdsp c).extractLsb' 6 3)) (cRs2 c) q = c := by
  subst h3 hq
  simp [parcelCss, selector, immCSdsp_eq_cat, cRs2, quadrant]

theorem parcelCiw_of_fields (h3 : selector c = f3) (hq : quadrant c = q) :
    parcelCiw f3 (cat 8 ((immCiw c).extractLsb' 4 2) (cat 6 ((immCiw c).extractLsb' 6 4)
      (cat 2 ((immCiw c).extractLsb' 2 1) ((immCiw c).extractLsb' 3 1)))) (cLow c) q = c := by
  subst h3 hq
  simp [parcelCiw, selector, immCiw_eq_cat, cLow, quadrant]

theorem parcelClWord_of_fields (h3 : selector c = f3) (hq : quadrant c = 0b00#2) :
    parcelClWord f3 (immCLw c) (cHigh c) (cLow c) = c := by
  subst h3
  rw [parcelClWord, ← hq]
  simp [parcelCl, selector, immCLw_eq_cat, cHigh, cLow, quadrant]

theorem parcelClDouble_of_fields (h3 : selector c = f3) (hq : quadrant c = 0b00#2) :
    parcelClDouble f3 (immCLd c) (cHigh c) (cLow c) = c := by
  subst h3
  rw [parcelClDouble, ← hq]
  simp [parcelCl, selector, immCLd_eq_cat, cHigh, cLow, quadrant]

theorem parcelCa_of_fields {f6 : BitVec 6} {f2 : BitVec 2}
    (h6 : cat 6 (selector c) (cat 3 (cBit12 c) (cFunct2 c)) = f6) (h2 : cFunct2b c = f2) (hq : quadrant c = q) :
    parcelCa f6 (cHigh c) f2 (cLow c) q = c := by
  subst h6 h2 hq
  simp [parcelCa, selector, cBit12, cFunct2, cHigh, cFunct2b, cLow, quadrant]

theorem parcelCb_of_fields (h3 : selector c = f3) (hq : quadrant c = q) :
    parcelCb f3 (immCB c) (cHigh c) q = c := by
  subst h3 hq
  simp [parcelCb, selector, immCB_eq_cat, cHigh, quadrant]

theorem parcelCbImm_of_fields {f2 : BitVec 2} (h3 : selector c = f3) (h2 : cFunct2 c = f2) (hq : quadrant c = q) :
    parcelCbImm f3 (immCi c) f2 (cHigh c) q = c := by
  subst h3 h2 hq
  simp [parcelCbImm, selector, immCi_eq_cat, cFunct2, cHigh, quadrant]

theorem parcelCj_of_fields (h3 : selector c = f3) (hq : quadrant c = q) : parcelCj f3 (immCJ c) q = c := by
  subst h3 hq
  simp [parcelCj, selector, immCJ_eq_cat, quadrant]

end parcel

/-! ### The resolvers' arms

A resolver's last arm has no test of its own: there the field has the one value that the tests before it left. -/

/-- Whatever instruction a resolver answers is encoded as `ps`. -/
def Restores (ps : List Parcel) (o : Option Instr) : Prop := ∀ i, o = some i → encode i = ps

theorem Restores.none {ps : List Parcel} : Restores ps none := nofun

theorem Restores.word {x w : Word} {i : Instr} (h : x = w) (he : encode i = halves x := by rfl) :
    Restores (halves w) (some i) := by
  rintro _ ⟨⟩
  rw [he, h]

theorem Restores.parcel {x c : Parcel} {i : Instr} (h : x = c) (he : encode i = [x] := by rfl) :
    Restores [c] (some i) := by
  rintro _ ⟨⟩
  rw [he, h]

/-- It does if it does on each side of a test, where the test came out that way. -/
theorem Restores.ite {ps : List Parcel} {p : Prop} [Decidable p] {a b : Option Instr} (ha : p → Restores ps a)
    (hb : ¬ p → Restores ps b) : Restores ps (if p then a else b) := by
  split
  · exact ha ‹_›
  · exact hb ‹_›

section word
variable {w : Word}

theorem decodeJalr_restores (hop : opcode w = 0b1100111#7) : Restores (halves w) (decodeJalr w) :=
  .ite (fun h => .word (wordI_of_fields h hop)) fun _ => .none

theorem decodeLoad_restores (hop : opcode w = 0b0000011#7) : Restores (halves w) (decodeLoad w) := by
  unfold decodeLoad
  iterate 5 refine .ite (fun h => .word (wordI_of_fields h hop)) fun _ => ?_
  exact .none

theorem decodeStore_restores (hop : opcode w = 0b0100011#7) : Restores (halves w) (decodeStore w) := by
  unfold decodeStore
  iterate 3 refine .ite (fun h => .word (wordS_of_fields h hop)) fun _ => ?_
  exact .none

theorem decodeBranch_restores (hop : opcode w = 0b1100011#7) : Restores (halves w) (decodeBranch w) := by
  unfold decodeBranch
  iterate 6 refine .ite (fun h => .word (wordB_of_fields h hop)) fun _ => ?_
  exact .none

theorem decodeOpImm_restores (hop : opcode w = 0b0010011#7) : Restores (halves w) (decodeOpImm w) := by
  unfold decodeOpImm
  iterate 6 refine .ite (fun h => .word (wordI_of_fields h hop)) fun _ => ?_
  refine .ite (fun h => .ite (fun h7 => .word (wordR_of_fields h7 h hop)) fun _ => .none) fun _ => ?_
  have h : funct3 w = 0b101#3 := by bv_omega
  iterate 2 refine .ite (fun h7 => .word (wordR_of_fields h7 h hop)) fun _ => ?_
  exact .none

theorem decodeOp_restores (hop : opcode w = 0b0110011#7) : Restores (halves w) (decodeOp w) := by
  refine .ite (fun h7 => ?_) fun _ => .ite (fun h7 => ?_) fun _ => .none
  · iterate 7 refine .ite (fun h => .word (wordR_of_fields h7 h hop)) fun _ => ?_
    have h : funct3 w = 0b111#3 := by bv_omega
    exact .word (wordR_of_fields h7 h hop)
  · iterate 2 refine .ite (fun h => .word (wordR_of_fields h7 h hop)) fun _ => ?_
    exact .none

/-- The CSR arms; the PRIV lookup does not read all of the word. -/
theorem decodeSystem_restores (hop : opcode w = 0b1110011#7) (hf : funct3 w ≠ 0b000#3) :
    Restores (halves w) (decodeSystem w) := by
  refine .ite (fun h => absurd h hf) fun _ => ?_
  iterate 6 refine .ite (fun h => .word (wordI_of_fields h hop)) fun _ => ?_
  exact .none

/-- `rd` and `rs1` are not read (R281). -/
theorem decodePriv_restores (hop : opcode w = 0b1110011#7) (hf : funct3 w = 0b000#3) :
    Restores (halves (w &&& 0xfff0707f#32)) (decodePriv w) := by
  have mask {imm : BitVec 12} (h : fieldImmI w = imm) :
      wordI imm 0#5 0b000#3 0#5 0b1110011#7 = w &&& 0xfff0707f#32 :=
    wordI_of_mask hf hop (h ▸ BitVec.and_allOnes) rfl rfl rfl rfl
  unfold decodePriv
  iterate 6 refine .ite (fun h => .word (mask h)) fun _ => ?_
  exact .none

/-- Of `fence`, `fm`, `rs1` and `rd` are not read (R296). -/
theorem encode_fence (hop : opcode w = 0b0001111#7) (hf : funct3 w = 0b000#3) :
    encode (.fence (fieldFence w)) = halves (w &&& 0x0ff0707f#32) :=
  congrArg halves (wordI_of_mask hf hop (fieldImmI_and_flags w) rfl rfl rfl rfl)

/-- Of `fence.i`, only `opcode` and `funct3` are read (R298). -/
theorem encode_fenceI (hop : opcode w = 0b0001111#7) (hf : funct3 w = 0b001#3) :
    encode .fenceI = halves (w &&& 0x0000707f#32) :=
  congrArg halves (wordI_of_mask hf hop BitVec.and_zero rfl rfl rfl rfl)

/-- Every arm but those that do not read all of the word. -/
theorem decode32_restores (hm : opcode w ≠ 0b0001111#7) (hs : opcode w ≠ 0b1110011#7 ∨ funct3 w ≠ 0b000#3) :
    Restores (halves w) (decode32 w) := by
  refine .ite (fun h => .word (wordU_of_fields h)) fun _ => ?_
  refine .ite (fun h => .word (wordU_of_fields h)) fun _ => ?_
  refine .ite (fun h => .word (wordJ_of_fields h)) fun _ => ?_
  exact .ite decodeJalr_restores fun _ => .ite decodeLoad_restores fun _ => .ite decodeStore_restores fun _ =>
    .ite decodeBranch_restores fun _ => .ite decodeOpImm_restores fun _ => .ite decodeOp_restores fun _ =>
    .ite (fun h => decodeSystem_restores h (hs.resolve_left (not_not.2 h))) fun _ =>
    .ite (fun h => absurd h hm) fun _ => .none

end word

section parcel
variable {c : Parcel}

theorem decodeC0_restores (hq : quadrant c = 0b00#2) : Restores [c] (decodeC0 c) := by
  refine .ite (fun h => .ite (fun _ => .none) fun _ => ?_) fun _ => ?_
  · exact .parcel (parcelCiw_of_fields h hq)
  refine .ite (fun h => .parcel (parcelClDouble_of_fields h hq)) fun _ => ?_
  iterate 2 refine .ite (fun h => .parcel (parcelClWord_of_fields h hq)) fun _ => ?_
  refine .ite (fun _ => .none) fun _ => ?_
  refine .ite (fun h => .parcel (parcelClDouble_of_fields h hq)) fun _ => ?_
  refine .ite (fun h => .parcel (parcelClWord_of_fields h hq)) fun _ => ?_
  have h : selector c = 0b111#3 := by bv_omega
  exact .parcel (parcelClWord_of_fields h hq)

theorem decodeC1Arith_restores (hq : quadrant c = 0b01#2) (h3 : selector c = 0b100#3) :
    Restores [c] (decodeC1Arith c) := by
  refine .ite (fun h2 => .parcel (parcelCbImm_of_fields h3 h2 hq)) fun _ => ?_
  refine .ite (fun h2 => .ite (fun h12 => ?_) fun _ => .none) fun _ => .none
  have h6 : cat 6 (selector c) (cat 3 (cBit12 c) (cFunct2 c)) = 0b100011#6 := by rw [h3, h12, h2]; rfl
  iterate 3 refine .ite (fun h => .parcel (parcelCa_of_fields h6 h hq)) fun _ => ?_
  have h : cFunct2b c = 0b11#2 := by bv_omega
  exact .parcel (parcelCa_of_fields h6 h hq)

theorem decodeC1_restores (hq : quadrant c = 0b01#2) : Restores [c] (decodeC1 c) := by
  refine .ite (fun h => .parcel (parcelCi6_of_fields h hq)) fun _ => ?_
  refine .ite (fun h => .parcel (parcelCj_of_fields h hq)) fun _ => ?_
  refine .ite (fun h => .parcel (parcelCi6_of_fields h hq)) fun _ => ?_
  refine .ite (fun h => .ite (fun hrd => ?_) fun _ => ?_) fun _ => ?_
  · exact .parcel (parcelCi16sp_of_fields h hrd hq)
  · exact .parcel (parcelCiLui_of_fields h hq)
  refine .ite (decodeC1Arith_restores hq) fun _ => ?_
  refine .ite (fun h => .parcel (parcelCj_of_fields h hq)) fun _ => ?_
  refine .ite (fun h => .parcel (parcelCb_of_fields h hq)) fun _ => ?_
  have h : selector c = 0b111#3 := by bv_omega
  exact .parcel (parcelCb_of_fields h hq)

theorem decodeC2Group_restores (hq : quadrant c = 0b10#2) (h3 : selector c = 0b100#3) :
    Restores [c] (decodeC2Group c) := by
  refine .ite (fun h12 => ?_) fun h12 => ?_
  · have h4 : cat 4 (selector c) (cBit12 c) = 0b1000#4 := by rw [h3, h12]; rfl
    exact .ite (fun h => .parcel (parcelCr_of_fields h4 rfl h hq)) fun _ =>
      .parcel (parcelCr_of_fields h4 rfl rfl hq)
  · have h4 : cat 4 (selector c) (cBit12 c) = 0b1001#4 := by
      rw [h3, show cBit12 c = 1#1 by bv_omega]; rfl
    refine .ite (fun h => .ite (fun hrd => ?_) fun _ => ?_) fun _ => ?_
    · exact .parcel (parcelCr_of_fields h4 hrd h hq)
    · exact .parcel (parcelCr_of_fields h4 rfl h hq)
    · exact .parcel (parcelCr_of_fields h4 rfl rfl hq)

theorem decodeC2_restores (hq : quadrant c = 0b10#2) : Restores [c] (decodeC2 c) := by
  refine .ite (fun h => .ite (fun (h0 : immCi c = _) => ?_) fun _ => ?_) fun _ => ?_
  · have hc := parcelCi6_of_fields h hq
    rw [h0] at hc
    exact .parcel hc
  · exact .parcel (parcelCi6_of_fields h hq)
  refine .ite (fun h => .parcel (parcelCiDouble_of_fields h hq)) fun _ => ?_
  iterate 2 refine .ite (fun h => .parcel (parcelCiWord_of_fields h hq)) fun _ => ?_
  refine .ite (decodeC2Group_restores hq) fun _ => ?_
  refine .ite (fun h => .parcel (parcelCssDouble_of_fields h hq)) fun _ => ?_
  refine .ite (fun h => .parcel (parcelCssWord_of_fields h hq)) fun _ => ?_
  have h : selector c = 0b111#3 := by bv_omega
  exact .parcel (parcelCssWord_of_fields h hq)

theorem decode16_restores : Restores [c] (decode16 c) :=
  .ite decodeC0_restores fun _ => .ite decodeC1_restores fun _ => .ite decodeC2_restores fun _ => .none

end parcel

/-- Settles O45: every arm restores what it was given (`decode16_restores`, `decode32_restores`), but for the three that
do not read all of the word. -/
theorem encodeOfDecodeRestoresTheWord : Obligations.EncodeOfDecodeRestoresTheWord := by
  refine ⟨fun c => decode16_restores, fun w i h => ⟨fun (hop : opcode w = _) (hf : funct3 w = _) => ?fence,
    fun (hop : opcode w = _) (hf : funct3 w = _) => ?fenceI, fun (hop : opcode w = _) (hf : funct3 w = _) => ?priv,
    fun (hm : opcode w ≠ _) (hs : opcode w ≠ _ ∨ funct3 w ≠ _) => decode32_restores hm hs i h⟩⟩
  case fence =>
    obtain rfl : .fence (fieldFence w) = i := by simpa [decode32_of_miscMem hop, decodeMiscMem, hf] using h
    exact encode_fence hop hf
  case fenceI =>
    obtain rfl : .fenceI = i := by simpa [decode32_of_miscMem hop, decodeMiscMem, hf] using h
    exact encode_fenceI hop hf
  case priv => exact decodePriv_restores hop hf i (decode32_of_priv hop hf ▸ h)

end Sys2Proof.Proofs
end

section
/-! SUPPORT. What a 16-bit parcel stands for (spec 30_encoding.md rule R157): the resolver's answer settles what the
parcel delivers (`delivers16_of_decode16`) or that it is malformed (`malformed16_of_decode16`). With it, the family of
44_rvc_quadrant0.md. -/

namespace Sys2Proof.Proofs

open Sys2Proof.Machine Sys2Proof.Safety

/-! ### Slices -/

/-- A slice of a slice. -/
theorem extractLsb'_extractLsb'_of_add_le {v a m k n : Nat} (x : BitVec v) (h : k + n ≤ m) :
    (x.extractLsb' a m).extractLsb' k n = x.extractLsb' (a + k) n := by
  apply BitVec.eq_of_getLsbD_eq
  intro j hj
  simp [hj, show k + j < m by omega, Nat.add_assoc, -BitVec.getLsbD_eq_getElem]

/-! ### From the resolver to the parcel -/

/-- A parcel that the resolver knows delivers the record of its instruction's meaning. -/
theorem delivers16_of_decode16 {c : Parcel} {i : Instr} {d : Decoded} (h : decode16 c = some i)
    (hd : recordOf i = some d) : Delivers16 c i d := by
  refine ⟨h, decode_parcel_of_decode16 h, fun s => ?_⟩
  rw [exec_eq_deliver, decode16_resolves c i h, hd, deliver_eq_afterEvent]
  rfl

/-- R501: a compressed parcel that the resolver has no arm for is malformed. -/
theorem malformed16_of_decode16 {c : Parcel} {q : BitVec 2} (hq : quadrant c = q) (hlen : q ≠ 0b11#2)
    (h : decode16 c = none) : Malformed16 c := by
  subst hq
  have hd := decode_parcel c hlen
  rwa [h] at hd

/-! ### Quadrant C0 -/

/-- R157 -/
theorem decode16_of_quadrant0 {c : Parcel} (hq : quadrant c = 0b00#2) : decode16 c = decodeC0 c := if_pos hq

/-- R140, R320: the scatter list places every bit of `c[12:5]`, so the immediate is zero when and only when they are. -/
theorem immCiw_eq_zero_iff (c : Parcel) : immCiw c = 0#10 ↔ c.extractLsb' 5 8 = 0#8 := by
  constructor
  · intro h
    have hfield : c.extractLsb' 5 8 = cat 8 ((immCiw c).extractLsb' 4 2) (cat 6 ((immCiw c).extractLsb' 6 4)
        (cat 2 ((immCiw c).extractLsb' 2 1) ((immCiw c).extractLsb' 3 1))) := by simp [immCiw_eq_cat]
    rw [hfield, h]
    rfl
  · intro h
    have hslice (k n : Nat) (hk : k + n ≤ 8 := by omega) : c.extractLsb' (5 + k) n = 0#n := by
      rw [← extractLsb'_extractLsb'_of_add_le c hk, h, BitVec.extractLsb'_zero]
    rw [immCiw_eq_cat, hslice 2 4, hslice 6 2, hslice 0 1, hslice 1 1]
    rfl

/-- Settles O12: by the immediate, as `decodeC0` tests it; it is zero when `c[12:5]` is (`immCiw_eq_zero_iff`). -/
theorem cAddi4spnDeliversOrIsMalformed : Obligations.CAddi4spnDeliversOrIsMalformed := by
  intro c (hq : quadrant c = _) (hs : selector c = _)
  have hd : decode16 c = if immCiw c = 0#10 then none else some (.cAddi4spn (cLow c) (immCiw c)) :=
    (decode16_of_quadrant0 hq).trans (if_pos hs)
  refine ⟨fun hne => ?delivers, fun hz => ?malformed⟩
  case delivers =>
    have hi := hd.trans (if_neg (mt (immCiw_eq_zero_iff c).1 hne))
    rw [immCiw_eq_cat] at hi
    exact delivers16_of_decode16 hi rfl
  case malformed =>
    exact malformed16_of_decode16 hq (by decide) (hd.trans (if_pos ((immCiw_eq_zero_iff c).2 hz)))

/-- Settles O13: by the selector, as `decodeC0` tests it; the scatters are the concatenations (`immCLd_eq_cat`,
`immCLw_eq_cat`). -/
theorem quadrantC0LoadsAndStoresDeliver : Obligations.QuadrantC0LoadsAndStoresDeliver := by
  intro c (hq : quadrant c = _)
  have hd := decode16_of_quadrant0 hq
  refine ⟨?fld, ?lw, ?flw, ?malformed, ?fsd, ?sw, ?fsw⟩
  case malformed =>
    intro (hs : selector c = _)
    exact malformed16_of_decode16 hq (by decide) (by simp [hd, decodeC0, hs])
  case fld | fsd =>
    intro (hs : selector c = _)
    exact delivers16_of_decode16 (by simp [hd, decodeC0, hs, cLow, cHigh, immCLd_eq_cat]) rfl
  case lw | flw | sw | fsw =>
    intro (hs : selector c = _)
    exact delivers16_of_decode16 (by simp [hd, decodeC0, hs, cLow, cHigh, immCLw_eq_cat]) rfl

end Sys2Proof.Proofs
end

section
/-! SUPPORT. The families of 45_rvc_quadrant1.md: quadrant C1 by selector (R360 to R365 and R374 to R376), and its
arithmetic group by `funct2`, `c[12]` and `funct2b` (R366 to R373, R377). -/

namespace Sys2Proof.Proofs

open Sys2Proof.Machine Sys2Proof.Safety

/-! ### Quadrant C1 -/

/-- R157 -/
theorem decode16_of_quadrant1 {c : Parcel} (hq : quadrant c = 0b01#2) : decode16 c = decodeC1 c := by
  simp [decode16, hq]

/-- Settles O14: by the selector, as `decodeC1` tests it; the scatters are the concatenations (`immCi_eq_cat`,
`immCJ_eq_cat`). -/
theorem cAddiCLiAndCompressedJumpsDeliver : Obligations.CAddiCLiAndCompressedJumpsDeliver := by
  intro c (hq : quadrant c = _)
  have hd := decode16_of_quadrant1 hq
  refine ⟨?addi, ?jal, ?li, ?j⟩
  case addi | li =>
    intro (hs : selector c = _)
    exact delivers16_of_decode16 (by simp [hd, decodeC1, hs, cRd, immCi_eq_cat]) rfl
  case jal | j =>
    intro (hs : selector c = _)
    exact delivers16_of_decode16 (by simp [hd, decodeC1, hs, immCJ_eq_cat]) rfl

/-- Settles O15: by `c[11:7]`, as `decodeC1` tests it; the scatters are the concatenations (`immC16sp_eq_cat`,
`immCLui_eq_cat`). -/
theorem cAddi16spAndCLuiSplitOnRegisterTwo : Obligations.CAddi16spAndCLuiSplitOnRegisterTwo := by
  intro c (hq : quadrant c = _) (hs : selector c = _)
  have hd : decode16 c = if cRd c = 2#5 then some (.cAddi16sp (immC16sp c)) else some (.cLui (cRd c) (immCLui c)) := by
    simp [decode16_of_quadrant1 hq, decodeC1, hs]
  refine ⟨fun (hrd : cRd c = _) => ?addi16sp, fun (hrd : cRd c ≠ _) => ?lui⟩
  case addi16sp =>
    have hi := hd.trans (if_pos hrd)
    rw [immC16sp_eq_cat] at hi
    exact delivers16_of_decode16 hi rfl
  case lui =>
    have hi := hd.trans (if_neg hrd)
    rw [immCLui_eq_cat] at hi
    exact delivers16_of_decode16 hi rfl

/-- Settles O17: by the selector, as `decodeC1` tests it; the scatter is the concatenation (`immCB_eq_cat`). -/
theorem compressedBranchesDeliver : Obligations.CompressedBranchesDeliver := by
  intro c (hq : quadrant c = _)
  have hd := decode16_of_quadrant1 hq
  refine ⟨fun (hs : selector c = _) => ?beqz, fun (hs : selector c = _) => ?bnez⟩
  all_goals exact delivers16_of_decode16 (by simp [hd, decodeC1, hs, cHigh, immCB_eq_cat]) rfl

/-! ### The arithmetic group -/

/-- R366: selector `100` is the arithmetic group. -/
theorem decode16_of_arith {c : Parcel} (hq : quadrant c = 0b01#2) (hs : selector c = 0b100#3) :
    decode16 c = decodeC1Arith c := by
  simp [decode16_of_quadrant1 hq, decodeC1, hs]

/-- Settles O16: by `funct2`, then by `c[12]` and `funct2b`, as `decodeC1Arith` tests them. -/
theorem quadrantC1ArithmeticDeliversOrIsMalformed : Obligations.QuadrantC1ArithmeticDeliversOrIsMalformed := by
  intro c (hq : quadrant c = _) (hs : selector c = _)
  have hd := decode16_of_arith hq hs
  refine ⟨?shiftMalformed, fun (h2 : cFunct2 c = _) => ?andi,
    fun (h2 : cFunct2 c = _) (h12 : cBit12 c = _) => ⟨?sub, ?xor, ?or, ?and⟩,
    fun (h2 : cFunct2 c = _) (h12 : cBit12 c = _) => ?bit12Malformed⟩
  case shiftMalformed =>
    intro (h2 : cFunct2 c ∈ _)
    simp only [List.mem_cons, List.not_mem_nil, or_false] at h2
    refine malformed16_of_decode16 hq (by decide) (hd.trans ?_)
    rcases h2 with h2 | h2 <;> simp [decodeC1Arith, h2]
  case andi => exact delivers16_of_decode16 (by simp [hd, decodeC1Arith, h2, cHigh, immCi_eq_cat]) rfl
  case bit12Malformed => exact malformed16_of_decode16 hq (by decide) (by simp [hd, decodeC1Arith, h2, h12])
  all_goals
    intro (hb : cFunct2b c = _)
    exact delivers16_of_decode16 (by simp [hd, decodeC1Arith, h2, h12, hb, cHigh, cLow]) rfl

end Sys2Proof.Proofs
end

section
/-! SUPPORT. The families of 46_rvc_quadrant2.md: quadrant C2 by selector (R400 to R404 and R411 to R413), and its
register and jump group by the triple (`c[12]`, `c[11:7] ≠ 0`, `c[6:2] ≠ 0`) (R405 to R410). -/

namespace Sys2Proof.Proofs

open Sys2Proof.Machine Sys2Proof.Safety

/-! ### Quadrant C2 -/

/-- R157 -/
theorem decode16_of_quadrant2 {c : Parcel} (hq : quadrant c = 0b10#2) : decode16 c = decodeC2 c := by
  simp [decode16, hq]

/-- Settles O18: by the shift amount, as `decodeC2` tests it; the scatter is the concatenation (`immCSh_eq_cat`). -/
theorem cSlliAndCSlli64SplitOnShiftAmount : Obligations.CSlliAndCSlli64SplitOnShiftAmount := by
  intro c (hq : quadrant c = _) (hs : selector c = _)
  have hd : decode16 c = if immCSh c = 0#6 then some (.cSlli64 (cRd c)) else some (.cSlli (cRd c) (immCSh c)) :=
    (decode16_of_quadrant2 hq).trans (if_pos hs)
  rw [immCSh_eq_cat] at hd
  refine ⟨fun hne => ?slli, fun hz => ?slli64⟩
  case slli => exact delivers16_of_decode16 (hd.trans (if_neg hne)) rfl
  case slli64 => exact delivers16_of_decode16 (hd.trans (if_pos hz)) rfl

/-- Settles O19: by the selector, as `decodeC2` tests it; the scatters are the concatenations (`immCLdsp_eq_cat`,
`immCLwsp_eq_cat`). -/
theorem stackLoadsDeliver : Obligations.StackLoadsDeliver := by
  intro c (hq : quadrant c = _)
  have hd := decode16_of_quadrant2 hq
  refine ⟨fun (hs : selector c = _) => ?fldsp, fun (hs : selector c = _) => ?lwsp,
    fun (hs : selector c = _) => ?flwsp⟩
  case fldsp => exact delivers16_of_decode16 (by simp [hd, decodeC2, hs, cRd, immCLdsp_eq_cat]) rfl
  case lwsp | flwsp => exact delivers16_of_decode16 (by simp [hd, decodeC2, hs, cRd, immCLwsp_eq_cat]) rfl

/-- Settles O20: by the selector, as `decodeC2` tests it; the scatters are the concatenations (`immCSdsp_eq_cat`,
`immCSwsp_eq_cat`). -/
theorem stackStoresDeliver : Obligations.StackStoresDeliver := by
  intro c (hq : quadrant c = _)
  have hd := decode16_of_quadrant2 hq
  refine ⟨fun (hs : selector c = _) => ?fsdsp, fun (hs : selector c = _) => ?swsp,
    fun (hs : selector c = _) => ?fswsp⟩
  case fsdsp => exact delivers16_of_decode16 (by simp [hd, decodeC2, hs, cRs2, immCSdsp_eq_cat]) rfl
  case swsp | fswsp => exact delivers16_of_decode16 (by simp [hd, decodeC2, hs, cRs2, immCSwsp_eq_cat]) rfl

/-! ### The register and jump group -/

/-- R405: selector `100` is the register and jump group. -/
theorem decode16_of_c2Group {c : Parcel} (hq : quadrant c = 0b10#2) (hs : selector c = 0b100#3) :
    decode16 c = decodeC2Group c := by
  simp [decode16_of_quadrant2 hq, decodeC2, hs]

/-- Settles O21: by the triple's row, as `decodeC2Group` tests it. -/
theorem quadrantC2RegisterAndJumpGroupDelivers : Obligations.QuadrantC2RegisterAndJumpGroupDelivers := by
  intro c (hq : quadrant c = _) (hs : selector c = _)
  have hd := decode16_of_c2Group hq hs
  refine ⟨fun (hb : cBit12 c = _) => ?jr, fun (hb : cBit12 c = _) => ?mv, fun (hb : cBit12 c = _) => ?ebreak,
    fun (hb : cBit12 c = _) => ?jalr, fun (hb : cBit12 c = _) => ?add⟩
  case jr =>
    intro (h2 : cRs2 c = _)
    exact delivers16_of_decode16 (i := .cJr (cRd c)) (by simp [hd, decodeC2Group, hb, h2]) rfl
  case mv =>
    intro (h2 : cRs2 c ≠ _)
    exact delivers16_of_decode16 (i := .cMv (cRd c) (cRs2 c)) (by simp [hd, decodeC2Group, hb, h2]) rfl
  case ebreak =>
    intro (hr : cRd c = _) (h2 : cRs2 c = _)
    exact delivers16_of_decode16 (by simp [hd, decodeC2Group, hb, h2, hr]) rfl
  case jalr =>
    intro (hr : cRd c ≠ _) (h2 : cRs2 c = _)
    exact delivers16_of_decode16 (i := .cJalr (cRd c)) (by simp [hd, decodeC2Group, hb, h2, hr]) rfl
  case add =>
    intro (h2 : cRs2 c ≠ _)
    exact delivers16_of_decode16 (i := .cAdd (cRd c) (cRs2 c)) (by simp [hd, decodeC2Group, hb, h2]) rfl

end Sys2Proof.Proofs
end

section
/-! SUPPORT. What a framed list of parcels stands for (spec 10_state.md rules R41 and R43; R440): its class and its
length settle what it decodes to, and that its event carries no record (`delivers_of_framed`). With it, the family of
the framed classes. -/

namespace Sys2Proof.Proofs

open Sys2Proof.Machine Sys2Proof.Safety

/-- R30: a class beyond the two decodable ones carries no record. -/
theorem recordOf_eq_none {i : Instr} (h : 1 < (framing i).1.code) : recordOf i = none := by
  rw [← Option.not_isSome_iff_eq_none, recordOf_isSome, decide_eq_true_iff]
  exact Nat.not_le.2 h

/-- R440: a whole instruction of a framed class decodes by its class alone, and it delivers its class and its length with
no record. -/
theorem delivers_of_framed {p0 : Parcel} {rest : List Parcel} {cat : Category} {n : Nat} {i : Instr}
    (hc : classify p0 = (cat, n)) (hl : (p0 :: rest).length = n) (hf : 1 < cat.code)
    (hi : decodeAs p0 (p0 :: rest) cat = .instr i) :
    decode (p0 :: rest) = .instr i ∧ (∀ s : State, exec i s = .next (afterEvent s cat (2 * n) none)) ∧
      ∀ s : State, Presents s (p0 :: rest) →
        step s = .next (afterEvent (afterReads s (p0 :: rest)) cat (2 * n) none) := by
  have hd : decode (p0 :: rest) = .instr i := (decode_eq_decodeAs hc hl).trans hi
  have hfr : framing i = (cat, n) := (framing_of_decode hd).trans hc
  have hexec (s : State) : exec i s = .next (afterEvent s cat (2 * n) none) := by
    rw [exec_eq_deliver, recordOf_eq_none (by rwa [hfr]), hfr, deliver_eq_afterEvent]
  exact ⟨hd, hexec, fun s hp => (stepRunsDecodedInstruction s _ i hp hd).trans (hexec _)⟩

/-- Settles O22: each class by its pattern (R107), and `delivers_of_framed`. -/
theorem framedInstructionsDeliverWithoutDecoding : Obligations.FramedInstructionsDeliverWithoutDecoding := by
  intro p0 rest ps nnn framed
  refine ⟨fun hp hl => ?doubleWord48, fun hp hl => ?quadWord64, fun hp hn hl => ?extended,
    fun hp hn hl => ?reserved192⟩
  case doubleWord48 => exact delivers_of_framed (classify_doubleWord48 p0 hp) hl (by decide) rfl
  case quadWord64 => exact delivers_of_framed (classify_quadWord64 p0 hp) hl (by decide) rfl
  case extended =>
    have hne : p0.extractLsb' 12 3 ≠ 0b111#3 := fun h => hn (congrArg BitVec.toNat h)
    have hlen : 10 + 2 * nnn = 2 * (5 + nnn) := by omega
    simp only [framed, hlen]
    exact delivers_of_framed (classify_extended p0 hp hne) hl (by decide) rfl
  case reserved192 => exact delivers_of_framed (classify_reserved192 p0 hp (BitVec.eq_of_toNat_eq hn)) hl (by decide) rfl

end Sys2Proof.Proofs
end

section
/-! SUPPORT. The aborts of a step (spec 60_exceptions.md rules R501 to R510): which read of a step can be its failing one
(`begins_unique`), what the step does there (`step_of_failed_read`), and the aborts there are (`step_aborts`). -/

namespace Sys2Proof.Proofs

open Sys2Proof.Machine Sys2Proof.Safety

/-! ### The failing read -/

/-- The parcels before the read that is not answered with one are determined. -/
theorem begins_unique {s : State} {ps qs : List Parcel} (hp : Begins s ps) (hq : Begins s qs)
    (hnp : ∀ p, s.answerAt (s.ptr + 2 * ps.length) ≠ some (.ok p))
    (hnq : ∀ p, s.answerAt (s.ptr + 2 * qs.length) ≠ some (.ok p)) : ps = qs := by
  have hl := length_eq_of_not_ok hp.answers hq.answers hnp hnq
  have hpre := answers_prefix ps qs _ hp.answers hq.answers hl.le
  rwa [hl, List.take_length] at hpre

/-- A failing read ends the pass (R42, R502, R505): cleanly if it is the first and finds no byte left, as truncated if it
finds the stream exhausted anywhere else, and else as an I/O failure. -/
theorem step_of_failed_read {s : State} {ps : List Parcel} {r : ReadAnswer} (h : Begins s ps)
    (hr : s.answerAt (s.ptr + 2 * ps.length) = some r) (hnok : ∀ p, r ≠ .ok p) :
    ∃ t, step s = .next t ∧
      ((ps = [] ∧ r = .eof 0 ∧ t = afterEnd s) ∨
       (∃ k, r = .eof k ∧ t = afterAbort s .truncatedInstruction ps [⟨s.ptr + 2 * ps.length, r⟩] none) ∨
       (r = .ioError ∧ t = afterAbort s .ioFailure ps [⟨s.ptr + 2 * ps.length, r⟩] none)) := by
  have hn : ∀ p, s.answerAt (s.ptr + 2 * ps.length) ≠ some (.ok p) := fun p hp =>
    hnok p (Option.some.inj (hr.symm.trans hp))
  have same {qs : List Parcel} (hq : Begins s qs) (hnq : ∀ p, s.answerAt (s.ptr + 2 * qs.length) ≠ some (.ok p)) :
      qs = ps := begins_unique hq h hnq hn
  obtain ⟨t, ht⟩ := (stepsExactlyWhileRunning s).1 h.running fun qs hq hnone => by
    obtain rfl := same hq (by rw [hnone]; nofun)
    rw [hnone] at hr
    cases hr
  refine ⟨t, ht, ?_⟩
  obtain ⟨-, ⟨qs, i, hp, -, -⟩ | ⟨qs, u, hp, -, -⟩ | ⟨h0, rfl⟩ | ⟨qs, k, hq, -, hk, rfl⟩ | ⟨qs, hq, hio, rfl⟩⟩ :=
    step_cases ht
  · obtain ⟨p, hok⟩ := answerAt_of_begins hp h
    exact absurd hok (hn p)
  · obtain ⟨p, hok⟩ := answerAt_of_begins hp h
    exact absurd hok (hn p)
  · obtain rfl := same (qs := []) ⟨h.running, trivial, nofun⟩ (by simp [h0])
    exact .inl ⟨rfl, Option.some.inj (hr.symm.trans h0), rfl⟩
  · obtain rfl := same hq (by rw [hk]; nofun)
    obtain rfl := Option.some.inj (hr.symm.trans hk)
    exact .inr (.inl ⟨k, rfl, rfl⟩)
  · obtain rfl := same hq (by rw [hio]; nofun)
    obtain rfl := Option.some.inj (hr.symm.trans hio)
    exact .inr (.inr ⟨rfl, rfl⟩)

/-- Settles O26: `step_malformed`. -/
theorem malformedInstructionAborts : Obligations.MalformedInstructionAborts := by
  intro s ps u
  exact step_malformed

/-- Settles O27: of the ends in `step_of_failed_read` the exhausted read leaves the truncation, and the clean end where
it is the first read and no byte is left. -/
theorem exhaustionInsideAnInstructionTruncates : Obligations.ExhaustionInsideAnInstructionTruncates := by
  intro s ps k h hk hin
  obtain ⟨t, ht, ⟨rfl, h0, -⟩ | ⟨-, -, rfl⟩ | ⟨hio, -⟩⟩ := step_of_failed_read h hk nofun
  · cases h0
    exact absurd hin (by simp)
  · exact ht
  · cases hio

/-- Settles O28: of the ends in `step_of_failed_read` the I/O error leaves only the I/O failure. -/
theorem readFailureAbortsAsIoFailure : Obligations.ReadFailureAbortsAsIoFailure := by
  intro s ps h hio
  obtain ⟨t, ht, ⟨-, h0, -⟩ | ⟨k, hk, -⟩ | ⟨-, rfl⟩⟩ := step_of_failed_read h hio nofun
  · cases h0
  · cases hk
  · exact ht

/-! ### What an abort changes -/

/-- The aborts there are (R500): the reads of the step, and the record made of them. -/
theorem step_aborts {s t : State} {e : ErrorRecord} (h : step s = .next t) (he : t.status = .aborted e) :
    ∃ kind ps failing tuple, t = afterAbort s kind ps failing tuple ∧ e = errorOf s kind ps tuple ∧
      parcelsRead failing = [] ∧ (tuple.isSome = true ↔ kind = .malformedEncoding) := by
  obtain ⟨hr, ⟨ps, i, -, -, hx⟩ | ⟨ps, u, -, -, rfl⟩ | ⟨-, rfl⟩ | ⟨ps, k, -, -, -, rfl⟩ | ⟨ps, -, -, rfl⟩⟩ :=
    step_cases h
  · rw [exec_eq_deliver, Host.Outcome.next.injEq] at hx
    rw [← hx, State.deliver_status, afterReads_status, hr] at he
    cases he
  · cases he
    exact ⟨_, ps, [], some u, rfl, rfl, rfl, by simp⟩
  · cases he
  · cases he
    exact ⟨_, ps, [⟨_, .eof k⟩], none, rfl, rfl, rfl, by simp⟩
  · cases he
    exact ⟨_, ps, [⟨_, .ioError⟩], none, rfl, rfl, rfl, by simp⟩

/-- Settles O30: an aborting step is `afterAbort` (`step_aborts`), field by field; the stream by `step_keepsStream`. -/
theorem abortIsPrecise : Obligations.AbortIsPrecise := by
  intro s t e h he
  have hk := step_keepsStream h
  obtain ⟨kind, ps, failing, tuple, rfl, rfl, hf, ht⟩ := step_aborts h he
  refine ⟨rfl, rfl, rfl, rfl, hk.params, hk.bytes, hk.terminator, hk.silentFrom, rfl, ht,
    readRecords s.ptr ps ++ failing, List.append_assoc .., ?_⟩
  rw [parcelsRead_append, parcelsRead_readRecords, hf, List.append_nil]
  rfl

end Sys2Proof.Proofs
end

section
/-! SUPPORT. The start of a pass (spec 70_reset_and_hazards.md rules R560 to R562): every pass begins in the invariant
(`inv_startPass`), and a reset starts one whose first read is at offset 0. -/

namespace Sys2Proof.Proofs

open Sys2Proof.Machine Sys2Proof.Safety

/-- A pass begins with empty logs at offset 0 of a canonical stream. -/
theorem inv_startPass (params : Params) (bytes : List Byte) (terminator : Terminator) (silentFrom : Option Nat) :
    Inv (startPass params bytes terminator silentFrom) where
  canonical := Memory.ofBytes_wf bytes
  even := rfl
  inStream := Nat.zero_le _
  bufferEmpty := rfl
  eventsChain := rfl
  eventsOk := List.forall_mem_nil _
  readsChain := rfl
  conserved := rfl
  status := ⟨rfl, rfl, List.forall_mem_nil _⟩

/-- Settles O34: `inv_startPass`; the reset state is the start of a pass over the empty stream. -/
theorem everyPassBeginsInTheInvariant : Obligations.EveryPassBeginsInTheInvariant :=
  ⟨inv_startPass Config.defaultParams [] .eof none, inv_startPass⟩

/-- Settles O41: a restart is the start of a pass, field by field; its first read is at `ptr`, by
`readsOfAStepAreInOffsetOrder`. -/
theorem resetStartsAPassAtOffsetZero : Obligations.ResetStartsAPassAtOffsetZero := by
  intro s params bytes terminator silentFrom r
  refine ⟨rfl, rfl, rfl, rfl, rfl, rfl, rfl, rfl, Memory.byteAt_ofBytes bytes, fun t ht => ?_⟩
  obtain ⟨rs, hreads, hpos, -, horder⟩ := readsOfAStepAreInOffsetOrder r.2 t ht
  obtain ⟨hoffset, -⟩ := horder 0 hpos
  cases rs with
  | nil => cases hpos
  | cons x xs => exact ⟨x, xs, hreads, hoffset⟩

end Sys2Proof.Proofs
end

section
/-! SUPPORT. What the decoder answers (spec 10_state.md rule R43, 30_encoding.md rule R159): it reads the parcels of one
whole instruction and no more (`decode_whole_prefix`); malformed is what a resolver has no arm for (R501, R504); and
every instruction it answers is well-formed. -/

namespace Sys2Proof.Proofs

open Sys2Proof.Machine

/-! ### One whole instruction -/

/-- A decoded list begins with one whole instruction, which decodes alone. -/
theorem decode_whole_prefix {ps : List Parcel} {i : Instr} (h : decode ps = .instr i) :
    ∃ p0 own rest, ps = p0 :: own ++ rest ∧ (p0 :: own).length = (classify p0).2 ∧ decode (p0 :: own) = .instr i := by
  cases ps with
  | nil => cases h
  | cons p0 tail =>
    have hlong : ¬ (p0 :: tail).length < (classify p0).2 := fun hlt => by
      rw [decode, if_pos hlt] at h
      cases h
    obtain ⟨n, hn⟩ := Nat.exists_eq_succ_of_ne_zero (classify_pos p0).ne'
    have hsplit : p0 :: tail = p0 :: tail.take n ++ tail.drop n := by simp
    have hl : (p0 :: tail.take n).length = (classify p0).2 := by
      rw [List.length_cons] at hlong ⊢
      rw [List.length_take]
      omega
    rw [hsplit, decode_append hl] at h
    exact ⟨p0, tail.take n, tail.drop n, hsplit, hl, h⟩

/-! ### What is malformed -/

@[simp] theorem resolved_eq_malformed {t u : DiagTuple} {o : Option Instr} :
    resolved t o = .rejected (.malformed u) ↔ o = none ∧ u = t := by
  cases o <;> simp [resolved, eq_comm]

/-- R43: a list that begins with a parcel outside quadrant `11`. -/
theorem decode_of_compressed16 {c : Parcel} (h : c.extractLsb' 0 2 ≠ 0b11#2) (rest : List Parcel) :
    decode (c :: rest) = resolved (tuple16 c) (decode16 c) := by
  have hl : [c].length = (classify c).2 := by rw [classify_compressed16 h]; rfl
  exact (decode_append hl rest).trans (decode_parcel c h)

/-- R43: a list that begins with both parcels of a 32-bit instruction. -/
theorem decode_of_word32 {p0 : Parcel} (h : p0.extractLsb' 0 2 = 0b11#2) (h' : p0.extractLsb' 2 3 ≠ 0b111#3)
    (p1 : Parcel) (rest : List Parcel) :
    decode (p0 :: p1 :: rest) = resolved (tuple32 (wordOf p0 p1)) (decode32 (wordOf p0 p1)) := by
  have hc := classify_word32 h h'
  have hl : [p0, p1].length = (classify p0).2 := by rw [hc]; rfl
  exact (decode_append hl rest).trans (decode_eq_decodeAs hc rfl)

/-- R502: the first parcel of a 32-bit instruction alone. -/
theorem decode_of_word32_alone {p0 : Parcel} (h : p0.extractLsb' 0 2 = 0b11#2) (h' : p0.extractLsb' 2 3 ≠ 0b111#3) :
    decode [p0] = .rejected .truncated := by
  rw [decode, classify_word32 h h', if_pos (by simp)]

/-- The tuple of a 32-bit instruction in its two parcels (R504). -/
theorem tuple32_wordOf (p0 p1 : Parcel) :
    tuple32 (wordOf p0 p1) = .word32 (p0.extractLsb' 0 7) (p0.extractLsb' 12 3) (p1.extractLsb' 9 7) := by
  simp [tuple32, wordOf, opcode, funct3, funct7]

/-- R440: no list of a framed class is malformed. -/
theorem decode_of_framed_ne_malformed {p0 : Parcel} (h : p0.extractLsb' 0 2 = 0b11#2)
    (h' : p0.extractLsb' 2 3 = 0b111#3) (rest : List Parcel) (u : DiagTuple) :
    decode (p0 :: rest) ≠ .rejected (.malformed u) := by
  rw [decode]
  split
  · nofun
  rw [classify, if_neg (not_not.2 h), if_neg (not_not.2 h')]
  split_ifs <;> nofun

/-- R405: every parcel of quadrant `10` has an arm. -/
theorem decodeC2_isSome (c : Parcel) : (decodeC2 c).isSome = true := by
  unfold decodeC2 decodeC2Group
  split_ifs <;> rfl

/-- Settles O55: by the length class of the first parcel, as `classify` tests it. -/
theorem malformedExactlyWhenNoArmDecodes : Obligations.MalformedExactlyWhenNoArmDecodes := by
  refine ⟨fun ps u => ?_, fun c hq => ?_⟩
  · cases ps with
    | nil => simp [decode]
    | cons p0 rest =>
      by_cases h : p0.extractLsb' 0 2 = 0b11#2
      · by_cases h' : p0.extractLsb' 2 3 = 0b111#3
        · simp [decode_of_framed_ne_malformed h h', h, h']
        · cases rest with
          | nil => simp [decode_of_word32_alone h h', h]
          | cons p1 rest =>
            rw [decode_of_word32 h h', resolved_eq_malformed, tuple32_wordOf, wordOf]
            simp [h, h']
      · rw [decode_of_compressed16 h, resolved_eq_malformed, tuple16, quadrant, selector]
        simp [h]
  · rw [← Option.isSome_iff_exists, decode16_of_quadrant2 hq]
    exact decodeC2_isSome c

/-! ### What is well-formed -/

/-- If a resolver answers an instruction, it is well-formed. -/
def AnswersWellFormed (o : Option Instr) : Prop := o.all Instr.wellFormed = true

/-- It is if it is on each side of a test, where the test came out that way. -/
theorem AnswersWellFormed.ite {p : Prop} [Decidable p] {a b : Option Instr} (ha : p → AnswersWellFormed a)
    (hb : ¬ p → AnswersWellFormed b) : AnswersWellFormed (if p then a else b) := by
  split
  · exact ha ‹_›
  · exact hb ‹_›

theorem AnswersWellFormed.wellFormed_of_resolved {o : Option Instr} (h : AnswersWellFormed o) {t : DiagTuple}
    {i : Instr} (hi : resolved t o = .instr i) : i.wellFormed = true := by
  rw [resolved_eq_instr] at hi
  rwa [hi] at h

section resolvers
variable (w : Word) (c : Parcel)

/-- R136 -/
theorem lowZero_fieldImmU : lowZero 12 (fieldImmU w) = true := by simp [fieldImmU]

theorem decodeBranch_answersWellFormed : AnswersWellFormed (decodeBranch w) := by
  unfold decodeBranch
  iterate 6 refine .ite (fun _ => lowZero_fieldImmB w) fun _ => ?_
  rfl

/-- Of the 32-bit instructions only those with a U, B or J immediate (R135 to R137) have a check to pass. -/
theorem decode32_answersWellFormed : AnswersWellFormed (decode32 w) := by
  refine .ite (fun _ => lowZero_fieldImmU w) fun _ => .ite (fun _ => lowZero_fieldImmU w) fun _ =>
    .ite (fun _ => lowZero_fieldImmJ w) fun _ => .ite ?jalr fun _ => .ite ?load fun _ => .ite ?store fun _ =>
    .ite (fun _ => decodeBranch_answersWellFormed w) fun _ => .ite ?opImm fun _ => .ite ?op fun _ =>
    .ite ?system fun _ => .ite ?miscMem fun _ => rfl
  case jalr | load | store | opImm | op | system | miscMem =>
    intro _
    repeat' refine AnswersWellFormed.ite (fun _ => ?_) fun _ => ?_
    all_goals rfl

theorem decodeC0_answersWellFormed : AnswersWellFormed (decodeC0 c) :=
  .ite (fun _ => .ite (fun _ => rfl) fun h => Bool.and_eq_true_iff.2 ⟨lowZero_immCiw c, bne_iff_ne.2 h⟩) fun _ =>
  .ite (fun _ => lowZero_immCLd c) fun _ => .ite (fun _ => lowZero_immCLw c) fun _ =>
  .ite (fun _ => lowZero_immCLw c) fun _ => .ite (fun _ => rfl) fun _ => .ite (fun _ => lowZero_immCLd c) fun _ =>
  .ite (fun _ => lowZero_immCLw c) fun _ => lowZero_immCLw c

theorem decodeC1Arith_answersWellFormed : AnswersWellFormed (decodeC1Arith c) := by
  repeat' refine AnswersWellFormed.ite (fun _ => ?_) fun _ => ?_
  all_goals rfl

theorem decodeC1_answersWellFormed : AnswersWellFormed (decodeC1 c) :=
  .ite (fun _ => rfl) fun _ => .ite (fun _ => lowZero_immCJ c) fun _ => .ite (fun _ => rfl) fun _ =>
  .ite (fun _ => .ite (fun _ => lowZero_immC16sp c)
    fun h => Bool.and_eq_true_iff.2 ⟨lowZero_immCLui c, bne_iff_ne.2 h⟩) fun _ =>
  .ite (fun _ => decodeC1Arith_answersWellFormed c) fun _ => .ite (fun _ => lowZero_immCJ c) fun _ =>
  .ite (fun _ => lowZero_immCB c) fun _ => lowZero_immCB c

/-- The tests of R405 are the checks. -/
theorem decodeC2Group_answersWellFormed : AnswersWellFormed (decodeC2Group c) :=
  .ite (fun _ => .ite (fun _ => rfl) fun h => bne_iff_ne.2 h) fun _ =>
  .ite (fun _ => .ite (fun _ => rfl) fun h => bne_iff_ne.2 h) fun h => bne_iff_ne.2 h

theorem decodeC2_answersWellFormed : AnswersWellFormed (decodeC2 c) :=
  .ite (fun _ => .ite (fun _ => rfl) fun h => bne_iff_ne.2 h) fun _ =>
  .ite (fun _ => lowZero_immCLdsp c) fun _ => .ite (fun _ => lowZero_immCLwsp c) fun _ =>
  .ite (fun _ => lowZero_immCLwsp c) fun _ => .ite (fun _ => decodeC2Group_answersWellFormed c) fun _ =>
  .ite (fun _ => lowZero_immCSdsp c) fun _ => .ite (fun _ => lowZero_immCSwsp c) fun _ => lowZero_immCSwsp c

theorem decode16_answersWellFormed : AnswersWellFormed (decode16 c) :=
  .ite (fun _ => decodeC0_answersWellFormed c) fun _ => .ite (fun _ => decodeC1_answersWellFormed c) fun _ =>
  .ite (fun _ => decodeC2_answersWellFormed c) fun _ => rfl

end resolvers

/-! ### The framed classes -/

/-- The pattern of R107 that goes with a category: none for the two decodable ones. -/
def framedPattern (p0 : Parcel) : Category → Bool
  | .compressed16 => true
  | .word32 => true
  | .doubleWord48 => isDoubleWord48 p0
  | .quadWord64 => isQuadWord64 p0
  | .extended => isExtended p0
  | .reserved192 => isReserved192 p0

/-- Bits 5:0 from the fields that the classifier tests one after the other (R103). -/
theorem low_six_bits (p0 : Parcel) :
    p0.extractLsb' 0 6 = cat 6 (p0.extractLsb' 5 1) (cat 5 (p0.extractLsb' 2 3) (p0.extractLsb' 0 2)) := by
  simp

/-- Bits 6:0 from the fields that the classifier tests one after the other (R104, R105). -/
theorem low_seven_bits (p0 : Parcel) :
    p0.extractLsb' 0 7 = cat 7 (p0.extractLsb' 6 1) (p0.extractLsb' 0 6) := by
  simp

/-- R107: a parcel has the pattern of its class. -/
theorem framedPattern_classify (p0 : Parcel) : framedPattern p0 (classify p0).1 = true := by
  have one {v : BitVec 1} (h : ¬ v = 0#1) : v = 1#1 := by bv_omega
  simp only [classify, lengthField, ne_eq, ite_not]
  split_ifs with h2 h3 h5 h6 hn
  · simp [framedPattern, isDoubleWord48, low_six_bits, h2, h3, h5, cat]
  · simp [framedPattern, isQuadWord64, low_seven_bits, low_six_bits, h2, h3, one h5, h6, cat]
  · simp [framedPattern, isReserved192, low_seven_bits, low_six_bits, h2, h3, one h5, one h6, hn, cat]
  · simp [framedPattern, isExtended, low_seven_bits, low_six_bits, h2, h3, one h5, one h6, hn, cat]
  · rfl
  · rfl

/-- Settles O44: the resolvers answer well-formed instructions (`decode16_answersWellFormed`,
`decode32_answersWellFormed`), and a framed one has the pattern and the length of its class. -/
theorem decodedInstructionsAreWellFormed : Obligations.DecodedInstructionsAreWellFormed := by
  intro ps i h
  obtain ⟨p0, own, rest, rfl, hl, hd⟩ := decode_whole_prefix h
  have hp := framedPattern_classify p0
  have hn := hl.trans (classify_snd p0)
  rw [decode_eq_decodeAs (c := (classify p0).1) rfl hl] at hd
  cases hc : (classify p0).1 <;> rw [hc] at hd hp hn
  case compressed16 => exact (decode16_answersWellFormed p0).wellFormed_of_resolved hd
  case word32 =>
    cases own with
    | nil => cases hd
    | cons p1 own => exact (decode32_answersWellFormed _).wellFormed_of_resolved hd
  all_goals
    cases hd
    rw [Instr.wellFormed, framedAs_iff]
    exact ⟨p0, own, rfl, hp, hn⟩

end Sys2Proof.Proofs
end

section
/-! SUPPORT. The first step over a table word that the host has placed at `ptr` (log entry 4): the source presents there
the one instruction that the table word's parcels begin with (`presents_placed`). -/

namespace Sys2Proof.Proofs

open Sys2Proof.Machine Sys2Proof.Safety

/-- The parcels of a list's bytes are the list (R63). -/
theorem parcelsOfBytes_flatMap (o : ByteOrder) (ps : List Parcel) :
    parcelsOfBytes o (ps.flatMap (bytesOfParcel o)) = ps := by
  induction ps with
  | nil => rfl
  | cons p ps ih =>
    obtain ⟨b0, b1, hb⟩ := List.length_eq_two.1 (length_bytesOfParcel o p)
    have hp := combineBytes_bytesOfParcel o p
    rw [hb] at hp
    rw [List.flatMap_cons, hb, List.cons_append, List.cons_append, List.nil_append, parcelsOfBytes, ih, hp]

/-- What the decoder reads from a table word it reads from its parcels. -/
theorem decode_tableParcels {nbits w : Nat} {i : Instr} (h : decodeTableWord nbits w = some i) :
    decode (tableParcels nbits w) = .instr i := by
  rw [decodeTableWord, decodeBytes, tableBytes, parcelsOfBytes_flatMap] at h
  cases hd : decode (tableParcels nbits w) with
  | instr j => simpa [hd] using h
  | rejected e => simp [hd] at h

/-- The parcels whose bytes a stream holds after `pre` are the answers to the reads there, whatever follows them. -/
theorem answers_ofBytes_append {s : State} (hs : s.source.silentFrom = none) (rest : List Byte) :
    ∀ (ps : List Parcel) (pre : List Byte),
      s.source.bytes = Memory.ofBytes (pre ++ ps.flatMap (bytesOfParcel s.params.byteOrder) ++ rest) →
      Answers s pre.length ps
  | [], _, _ => trivial
  | p :: ps, pre, hb => by
    rw [List.flatMap_cons, ← List.append_assoc] at hb
    have htail := answers_ofBytes_append hs rest ps (pre ++ bytesOfParcel s.params.byteOrder p) hb
    rw [List.length_append, length_bytesOfParcel] at htail
    rw [List.append_assoc, List.append_assoc] at hb
    exact ⟨readParcel_ofBytes hb hs, htail⟩

/-- What stands before the loaded bytes fills the stream up to their offset. -/
theorem length_before_place (m : Memory) (a : Nat) :
    ((Memory.toBytes m).take a ++ List.replicate (a - (Memory.toBytes m).length) (0 : Byte)).length = a := by
  rw [List.length_append, List.length_take, List.length_replicate]
  omega

/-- The reads from `ptr` on are answered with the parcels of the placed word. -/
theorem answers_placed (s : State) (nbits w : Nat) :
    Answers (s.placeWord nbits w) s.ptr (tableParcels nbits w) := by
  have h := answers_ofBytes_append (s := s.placeWord nbits w) rfl _ (tableParcels nbits w) _ rfl
  rwa [length_before_place] at h

/-- The instruction that the placed word begins with is presented at `ptr`. -/
theorem presents_placed (s : State) {nbits w : Nat} {i : Instr} (h : decodeTableWord nbits w = some i) :
    ∃ ps, Presents (s.placeWord nbits w) ps ∧ decode ps = .instr i := by
  obtain ⟨p0, own, rest, hps, hl, hd⟩ := decode_whole_prefix (decode_tableParcels h)
  have ha := answers_placed s nbits w
  rw [hps, answers_append] at ha
  exact ⟨p0 :: own, ⟨rfl, ha.1, p0, own, rfl, hl⟩, hd⟩

/-- Settles O42: `presents_placed`, on which the step runs the decoded instruction. -/
theorem placedTableWordIsRunNext : Obligations.PlacedTableWordIsRunNext := by
  intro s nbits w i h
  obtain ⟨ps, hp, hd⟩ := presents_placed s h
  exact ⟨afterReads (s.placeWord nbits w) ps, stepRunsDecodedInstruction _ ps i hp hd, rfl, rfl, hd⟩

end Sys2Proof.Proofs
end
